-- ==== Sys2Proof/Word.lean ====
section
/-! DEFINITION. The machine word and its parts (R6, R7, R61): every register and every address is 32 bits wide, memory
is addressed in bytes. -/

namespace Sys2Proof

/-- A register value or an address: `XLEN = ALEN = 32` (R6, R20, R61). -/
abbrev Word := BitVec 32

/-- A THUMB instruction (R100). -/
abbrev Half := BitVec 16

/-- The unit of memory (R61). -/
abbrev Byte := BitVec 8

/-- The number of one of the 16 visible register slots (R20); slot 15 is the program counter. -/
abbrev Reg := BitVec 4

/-- A 3-bit THUMB register field: slots 0 to 7 only (R122, R325). -/
abbrev LowReg := BitVec 3

/-- The slot a 3-bit field names. -/
abbrev LowReg.slot (r : LowReg) : Reg := r.setWidth 4

end Sys2Proof
end

