-- ==== Sys2Proof/Syntax.lean ====
section
/-! DEFINITION. The instructions: one constructor for each of the 181 rows of spec/opcode_table.json (106 ARM, 75 THUMB),
carrying every field the row names. A constructor named t… is a THUMB row. The fields are the encoded ones
(R102 to R125): Sys2Proof/Decode.lean pulls them out of the word once, and a meaning scales or extends them. Fields
marked "should be zero" or "should be one" are kept, named …Sbz or …Sbo, so that no bit of a word is lost; no meaning
reads them (R133). -/

namespace Sys2Proof

/-- The condition field (R155). -/
inductive Cond where
  | eq | ne | cs | cc | mi | pl | vs | vc | hi | ls | ge | lt | gt | le | al | nv
  deriving DecidableEq, Repr

/-- The shift types of R103. -/
inductive ShiftType where
  | lsl | lsr | asr | ror
  deriving DecidableEq, Repr

/-- Format A.DPI (R102). In the MOV and MVN rows `rn` is the should-be-zero field (R105). -/
structure DpImm where
  cond : Cond
  s : Bool
  rn : Reg
  rd : Reg
  rotate : BitVec 4
  imm8 : BitVec 8
  deriving DecidableEq, Repr

/-- Format A.DPR (R103). In the MOV and MVN rows `rn` is the should-be-zero field (R105). -/
structure DpReg where
  cond : Cond
  s : Bool
  rn : Reg
  rd : Reg
  shiftImm : BitVec 5
  type : ShiftType
  rm : Reg
  deriving DecidableEq, Repr

/-- Format A.DPRS (R104). In the MOV and MVN rows `rn` is the should-be-zero field (R105). -/
structure DpRsr where
  cond : Cond
  s : Bool
  rn : Reg
  rd : Reg
  rs : Reg
  type : ShiftType
  rm : Reg
  deriving DecidableEq, Repr

/-- Format A.DPI of TST, TEQ, CMP, CMN: S is 1 in the pattern and the Rd field should be zero (R105). -/
structure CmpImm where
  cond : Cond
  rn : Reg
  rdSbz : Reg
  rotate : BitVec 4
  imm8 : BitVec 8
  deriving DecidableEq, Repr

/-- Format A.DPR of TST, TEQ, CMP, CMN (R105). -/
structure CmpReg where
  cond : Cond
  rn : Reg
  rdSbz : Reg
  shiftImm : BitVec 5
  type : ShiftType
  rm : Reg
  deriving DecidableEq, Repr

/-- Format A.DPRS of TST, TEQ, CMP, CMN (R105). -/
structure CmpRsr where
  cond : Cond
  rn : Reg
  rdSbz : Reg
  rs : Reg
  type : ShiftType
  rm : Reg
  deriving DecidableEq, Repr

/-- Format A.MRS (R106); `r` selects the SPSR. -/
structure MrsFields where
  cond : Cond
  r : Bool
  sbo : BitVec 4
  rd : Reg
  sbzHi : BitVec 4
  sbzLo : BitVec 4
  deriving DecidableEq, Repr

/-- Format A.MSRR (R107); `fieldMask` is `f s x c` from bit 3 down. -/
structure MsrRegFields where
  cond : Cond
  r : Bool
  fieldMask : BitVec 4
  sbo : BitVec 4
  sbz : BitVec 4
  rm : Reg
  deriving DecidableEq, Repr

/-- Format A.MSRI (R108). -/
structure MsrImmFields where
  cond : Cond
  r : Bool
  fieldMask : BitVec 4
  sbo : BitVec 4
  rotate : BitVec 4
  imm8 : BitVec 8
  deriving DecidableEq, Repr

/-- Format A.BX (R109). -/
structure BxFields where
  cond : Cond
  sbo : BitVec 12
  rm : Reg
  deriving DecidableEq, Repr

/-- Format A.MUL (R110). In the MUL row `rn` is the should-be-zero field. -/
structure MulFields where
  cond : Cond
  s : Bool
  rd : Reg
  rn : Reg
  rs : Reg
  rm : Reg
  deriving DecidableEq, Repr

/-- Format A.MULL (R111). -/
structure MullFields where
  cond : Cond
  s : Bool
  rdHi : Reg
  rdLo : Reg
  rs : Reg
  rm : Reg
  deriving DecidableEq, Repr

/-- Format A.SWP (R112). -/
structure SwpFields where
  cond : Cond
  rn : Reg
  rd : Reg
  sbz : BitVec 4
  rm : Reg
  deriving DecidableEq, Repr

/-- Format A.HSR (R113). -/
structure HsReg where
  cond : Cond
  p : Bool
  u : Bool
  w : Bool
  rn : Reg
  rd : Reg
  sbz : BitVec 4
  rm : Reg
  deriving DecidableEq, Repr

/-- Format A.HSI (R114). -/
structure HsImm where
  cond : Cond
  p : Bool
  u : Bool
  w : Bool
  rn : Reg
  rd : Reg
  immH : BitVec 4
  immL : BitVec 4
  deriving DecidableEq, Repr

/-- Format A.SDTI with P = 1 (R115). -/
structure SdtImmPre where
  cond : Cond
  u : Bool
  w : Bool
  rn : Reg
  rd : Reg
  imm12 : BitVec 12
  deriving DecidableEq, Repr

/-- Format A.SDTI with P = 0, W fixed by the row (R115). -/
structure SdtImmPost where
  cond : Cond
  u : Bool
  rn : Reg
  rd : Reg
  imm12 : BitVec 12
  deriving DecidableEq, Repr

/-- Format A.SDTR with P = 1 (R116). -/
structure SdtRegPre where
  cond : Cond
  u : Bool
  w : Bool
  rn : Reg
  rd : Reg
  shiftImm : BitVec 5
  type : ShiftType
  rm : Reg
  deriving DecidableEq, Repr

/-- Format A.SDTR with P = 0, W fixed by the row (R116). -/
structure SdtRegPost where
  cond : Cond
  u : Bool
  rn : Reg
  rd : Reg
  shiftImm : BitVec 5
  type : ShiftType
  rm : Reg
  deriving DecidableEq, Repr

/-- Format A.BDT (R117), S fixed by the row. -/
structure BdtFields where
  cond : Cond
  p : Bool
  u : Bool
  w : Bool
  rn : Reg
  list : BitVec 16
  deriving DecidableEq, Repr

/-- Format A.BDT of the two LDM rows with S = 1 (R117): bit 15 of the list is fixed by the row, `list` is bits 14 to 0. -/
structure BdtLowFields where
  cond : Cond
  p : Bool
  u : Bool
  w : Bool
  rn : Reg
  list : BitVec 15
  deriving DecidableEq, Repr

/-- Format A.B (R118). -/
structure BranchFields where
  cond : Cond
  offset24 : BitVec 24
  deriving DecidableEq, Repr

/-- Format A.UND (R119). -/
structure UndFields where
  cond : Cond
  anyHi : BitVec 20
  anyLo : BitVec 4
  deriving DecidableEq, Repr

/-- Format A.CPDT (R120). -/
structure CpdtFields where
  cond : Cond
  p : Bool
  u : Bool
  n : Bool
  w : Bool
  rn : Reg
  crd : BitVec 4
  cpNum : BitVec 4
  offset8 : BitVec 8
  deriving DecidableEq, Repr

/-- Format A.CDP (R120). -/
structure CdpFields where
  cond : Cond
  cpOpc : BitVec 4
  crn : BitVec 4
  crd : BitVec 4
  cpNum : BitVec 4
  cpInfo : BitVec 3
  crm : BitVec 4
  deriving DecidableEq, Repr

/-- Format A.CRT (R120). -/
structure CrtFields where
  cond : Cond
  cpOpc : BitVec 3
  crn : BitVec 4
  rd : Reg
  cpNum : BitVec 4
  cpInfo : BitVec 3
  crm : BitVec 4
  deriving DecidableEq, Repr

/-- Format A.SWI (R121). -/
structure SwiFields where
  cond : Cond
  comment24 : BitVec 24
  deriving DecidableEq, Repr

/-- An instruction of either set. Reg forms of data processing shift by an immediate amount, Rsr forms by a register. -/
inductive Instr where
  -- ARM data processing (R200 to R225)
  | andImm (f : DpImm)
  | andReg (f : DpReg)
  | andRsr (f : DpRsr)
  | eorImm (f : DpImm)
  | eorReg (f : DpReg)
  | eorRsr (f : DpRsr)
  | subImm (f : DpImm)
  | subReg (f : DpReg)
  | subRsr (f : DpRsr)
  | rsbImm (f : DpImm)
  | rsbReg (f : DpReg)
  | rsbRsr (f : DpRsr)
  | addImm (f : DpImm)
  | addReg (f : DpReg)
  | addRsr (f : DpRsr)
  | adcImm (f : DpImm)
  | adcReg (f : DpReg)
  | adcRsr (f : DpRsr)
  | sbcImm (f : DpImm)
  | sbcReg (f : DpReg)
  | sbcRsr (f : DpRsr)
  | rscImm (f : DpImm)
  | rscReg (f : DpReg)
  | rscRsr (f : DpRsr)
  | tstImm (f : CmpImm)
  | tstReg (f : CmpReg)
  | tstRsr (f : CmpRsr)
  | teqImm (f : CmpImm)
  | teqReg (f : CmpReg)
  | teqRsr (f : CmpRsr)
  | cmpImm (f : CmpImm)
  | cmpReg (f : CmpReg)
  | cmpRsr (f : CmpRsr)
  | cmnImm (f : CmpImm)
  | cmnReg (f : CmpReg)
  | cmnRsr (f : CmpRsr)
  | orrImm (f : DpImm)
  | orrReg (f : DpReg)
  | orrRsr (f : DpRsr)
  | movImm (f : DpImm)
  | movReg (f : DpReg)
  | movRsr (f : DpRsr)
  | bicImm (f : DpImm)
  | bicReg (f : DpReg)
  | bicRsr (f : DpRsr)
  | mvnImm (f : DpImm)
  | mvnReg (f : DpReg)
  | mvnRsr (f : DpRsr)
  -- ARM status-register access and branch exchange
  | mrs (f : MrsFields)
  | msrReg (f : MsrRegFields)
  | msrImm (f : MsrImmFields)
  | bx (f : BxFields)
  -- ARM multiply
  | mul (f : MulFields)
  | mla (f : MulFields)
  | umull (f : MullFields)
  | umlal (f : MullFields)
  | smull (f : MullFields)
  | smlal (f : MullFields)
  -- ARM swap
  | swp (f : SwpFields)
  | swpb (f : SwpFields)
  -- ARM halfword and signed transfers
  | strhReg (f : HsReg)
  | strhImm (f : HsImm)
  | ldrhReg (f : HsReg)
  | ldrhImm (f : HsImm)
  | ldrsbReg (f : HsReg)
  | ldrsbImm (f : HsImm)
  | ldrshReg (f : HsReg)
  | ldrshImm (f : HsImm)
  -- ARM word and byte transfers
  | ldrImmPre (f : SdtImmPre)
  | ldrImmPost (f : SdtImmPost)
  | ldrtImm (f : SdtImmPost)
  | strImmPre (f : SdtImmPre)
  | strImmPost (f : SdtImmPost)
  | strtImm (f : SdtImmPost)
  | ldrbImmPre (f : SdtImmPre)
  | ldrbImmPost (f : SdtImmPost)
  | ldrbtImm (f : SdtImmPost)
  | strbImmPre (f : SdtImmPre)
  | strbImmPost (f : SdtImmPost)
  | strbtImm (f : SdtImmPost)
  | ldrRegPre (f : SdtRegPre)
  | ldrRegPost (f : SdtRegPost)
  | ldrtReg (f : SdtRegPost)
  | strRegPre (f : SdtRegPre)
  | strRegPost (f : SdtRegPost)
  | strtReg (f : SdtRegPost)
  | ldrbRegPre (f : SdtRegPre)
  | ldrbRegPost (f : SdtRegPost)
  | ldrbtReg (f : SdtRegPost)
  | strbRegPre (f : SdtRegPre)
  | strbRegPost (f : SdtRegPost)
  | strbtReg (f : SdtRegPost)
  -- ARM block transfers
  | ldm (f : BdtFields)
  | ldmUser (f : BdtLowFields)
  | ldmReturn (f : BdtLowFields)
  | stm (f : BdtFields)
  | stmUser (f : BdtFields)
  -- ARM branches
  | b (f : BranchFields)
  | bl (f : BranchFields)
  -- ARM coprocessor space, software interrupt, undefined
  | stc (f : CpdtFields)
  | ldc (f : CpdtFields)
  | cdp (f : CdpFields)
  | mcr (f : CrtFields)
  | mrc (f : CrtFields)
  | swi (f : SwiFields)
  | und (f : UndFields)
  -- THUMB formats 1 to 3
  | tLslImm (offset5 : BitVec 5) (rs : LowReg) (rd : LowReg)
  | tLsrImm (offset5 : BitVec 5) (rs : LowReg) (rd : LowReg)
  | tAsrImm (offset5 : BitVec 5) (rs : LowReg) (rd : LowReg)
  | tAddReg (rn : LowReg) (rs : LowReg) (rd : LowReg)
  | tSubReg (rn : LowReg) (rs : LowReg) (rd : LowReg)
  | tAddImm3 (imm3 : BitVec 3) (rs : LowReg) (rd : LowReg)
  | tSubImm3 (imm3 : BitVec 3) (rs : LowReg) (rd : LowReg)
  | tMovImm8 (rd : LowReg) (imm8 : BitVec 8)
  | tCmpImm8 (rd : LowReg) (imm8 : BitVec 8)
  | tAddImm8 (rd : LowReg) (imm8 : BitVec 8)
  | tSubImm8 (rd : LowReg) (imm8 : BitVec 8)
  -- THUMB format 4
  | tAnd (rs : LowReg) (rd : LowReg)
  | tEor (rs : LowReg) (rd : LowReg)
  | tLsl (rs : LowReg) (rd : LowReg)
  | tLsr (rs : LowReg) (rd : LowReg)
  | tAsr (rs : LowReg) (rd : LowReg)
  | tAdc (rs : LowReg) (rd : LowReg)
  | tSbc (rs : LowReg) (rd : LowReg)
  | tRor (rs : LowReg) (rd : LowReg)
  | tTst (rs : LowReg) (rd : LowReg)
  | tNeg (rs : LowReg) (rd : LowReg)
  | tCmp (rs : LowReg) (rd : LowReg)
  | tCmn (rs : LowReg) (rd : LowReg)
  | tOrr (rs : LowReg) (rd : LowReg)
  | tMul (rs : LowReg) (rd : LowReg)
  | tBic (rs : LowReg) (rd : LowReg)
  | tMvn (rs : LowReg) (rd : LowReg)
  -- THUMB format 5
  | tAddHi (h1 : Bool) (h2 : Bool) (rs : LowReg) (rd : LowReg)
  | tCmpHi (h1 : Bool) (h2 : Bool) (rs : LowReg) (rd : LowReg)
  | tMovHi (h1 : Bool) (h2 : Bool) (rs : LowReg) (rd : LowReg)
  | tBx (h2 : Bool) (rs : LowReg) (sbz : BitVec 3)
  -- THUMB loads and stores, formats 6 to 11
  | tLdrPc (rd : LowReg) (word8 : BitVec 8)
  | tStrReg (ro : LowReg) (rb : LowReg) (rd : LowReg)
  | tStrbReg (ro : LowReg) (rb : LowReg) (rd : LowReg)
  | tLdrReg (ro : LowReg) (rb : LowReg) (rd : LowReg)
  | tLdrbReg (ro : LowReg) (rb : LowReg) (rd : LowReg)
  | tStrhReg (ro : LowReg) (rb : LowReg) (rd : LowReg)
  | tLdsbReg (ro : LowReg) (rb : LowReg) (rd : LowReg)
  | tLdrhReg (ro : LowReg) (rb : LowReg) (rd : LowReg)
  | tLdshReg (ro : LowReg) (rb : LowReg) (rd : LowReg)
  | tStrImm (offset5 : BitVec 5) (rb : LowReg) (rd : LowReg)
  | tLdrImm (offset5 : BitVec 5) (rb : LowReg) (rd : LowReg)
  | tStrbImm (offset5 : BitVec 5) (rb : LowReg) (rd : LowReg)
  | tLdrbImm (offset5 : BitVec 5) (rb : LowReg) (rd : LowReg)
  | tStrhImm (offset5 : BitVec 5) (rb : LowReg) (rd : LowReg)
  | tLdrhImm (offset5 : BitVec 5) (rb : LowReg) (rd : LowReg)
  | tStrSp (rd : LowReg) (word8 : BitVec 8)
  | tLdrSp (rd : LowReg) (word8 : BitVec 8)
  -- THUMB formats 12 to 15
  | tAddPc (rd : LowReg) (word8 : BitVec 8)
  | tAddSp (rd : LowReg) (word8 : BitVec 8)
  | tIncSp (sword7 : BitVec 7)
  | tDecSp (sword7 : BitVec 7)
  | tPush (r : Bool) (rlist : BitVec 8)
  | tPop (r : Bool) (rlist : BitVec 8)
  | tStmia (rb : LowReg) (rlist : BitVec 8)
  | tLdmia (rb : LowReg) (rlist : BitVec 8)
  -- THUMB branches, software interrupt, undefined, formats 16 to 19
  | tBeq (soffset8 : BitVec 8)
  | tBne (soffset8 : BitVec 8)
  | tBcs (soffset8 : BitVec 8)
  | tBcc (soffset8 : BitVec 8)
  | tBmi (soffset8 : BitVec 8)
  | tBpl (soffset8 : BitVec 8)
  | tBvs (soffset8 : BitVec 8)
  | tBvc (soffset8 : BitVec 8)
  | tBhi (soffset8 : BitVec 8)
  | tBls (soffset8 : BitVec 8)
  | tBge (soffset8 : BitVec 8)
  | tBlt (soffset8 : BitVec 8)
  | tBgt (soffset8 : BitVec 8)
  | tBle (soffset8 : BitVec 8)
  | tUnd (any : BitVec 8)
  | tSwi (value8 : BitVec 8)
  | tB (offset11 : BitVec 11)
  | tBlFirst (offset11 : BitVec 11)
  | tBlSecond (offset11 : BitVec 11)
  deriving DecidableEq, Repr

end Sys2Proof
end

