-- ==== Sys2Proof/WellFormed.lean ====
section
/-! DEFINITION. Which encodings a program may use: everything but what part 2 of spec/93_implementation_defined.md marks
`refuse` or `refuse recommended` and that shows in the instruction word itself. A word outside it still decodes and, where
the spec gives it a behaviour, still runs (log 14 to 17): well-formedness is a promise about programs, not a check of `step`. -/

namespace Sys2Proof

/-- A should-be-one field holds only ones (R133, U6). -/
def allOnes (x : BitVec n) : Bool := x == BitVec.allOnes n

/-- A should-be-zero field holds only zeros (R133, U6). -/
def allZero (x : BitVec n) : Bool := x == 0#n

/-- The register is not slot 15. -/
def notPc (r : Reg) : Bool := r != 15#4

/-- The slots of a register list below slot `r` are not in it: `r` is the lowest of the list if it is in it. -/
def noneBelow (list : BitVec 16) (r : Reg) : Bool := list &&& ((1#16 <<< r.toNat) - 1#16) == 0#16

/-- Slot `r` is in the register list (R117). -/
def inList (list : BitVec 16) (r : Reg) : Bool := list.getLsbD r.toNat

/-- U9: no shift by the low byte of register 15. -/
def DpRsr.wellFormed (f : DpRsr) : Bool := notPc f.rs

/-- U6: the `Rn` field of MOV and MVN is zero. -/
def DpImm.moveWellFormed (f : DpImm) : Bool := allZero f.rn

/-- U6. -/
def DpReg.moveWellFormed (f : DpReg) : Bool := allZero f.rn

/-- U6, U9. -/
def DpRsr.moveWellFormed (f : DpRsr) : Bool := allZero f.rn && f.wellFormed

/-- U6, U10: the `Rd` field of TST, TEQ, CMP, CMN is zero. -/
def CmpImm.wellFormed (f : CmpImm) : Bool := allZero f.rdSbz

/-- U6, U10. -/
def CmpReg.wellFormed (f : CmpReg) : Bool := allZero f.rdSbz

/-- U6, U9, U10. -/
def CmpRsr.wellFormed (f : CmpRsr) : Bool := allZero f.rdSbz && notPc f.rs

/-- U6, U25. -/
def MrsFields.wellFormed (f : MrsFields) : Bool :=
  allOnes f.sbo && allZero f.sbzHi && allZero f.sbzLo && notPc f.rd

/-- U6, U25. -/
def MsrRegFields.wellFormed (f : MsrRegFields) : Bool := allOnes f.sbo && allZero f.sbz && notPc f.rm

/-- U6. -/
def MsrImmFields.wellFormed (f : MsrImmFields) : Bool := allOnes f.sbo

/-- U6, U19. -/
def BxFields.wellFormed (f : BxFields) : Bool := allOnes f.sbo && notPc f.rm

/-- U11 for MLA: no register 15, `Rd` is not `Rm`. -/
def MulFields.wellFormed (f : MulFields) : Bool :=
  notPc f.rd && notPc f.rn && notPc f.rs && notPc f.rm && f.rd != f.rm

/-- U6, U11 for MUL. -/
def MulFields.mulWellFormed (f : MulFields) : Bool := f.wellFormed && allZero f.rn

/-- U11 for the long forms: no register 15, `RdHi`, `RdLo` and `Rm` all different. -/
def MullFields.wellFormed (f : MullFields) : Bool :=
  notPc f.rdHi && notPc f.rdLo && notPc f.rs && notPc f.rm && f.rdHi != f.rdLo && f.rdHi != f.rm && f.rdLo != f.rm

/-- U6, U18. -/
def SwpFields.wellFormed (f : SwpFields) : Bool :=
  allZero f.sbz && notPc f.rn && notPc f.rd && notPc f.rm && f.rn != f.rm && f.rn != f.rd

/-- U16: with write-back the base is neither register 15 nor the register transferred. -/
def baseOk (writeback : Bool) (rn rd : Reg) : Bool := !writeback || (notPc rn && rd != rn)

/-- U6, U16, U17, U22. -/
def HsReg.wellFormed (f : HsReg) : Bool :=
  allZero f.sbz && notPc f.rd && notPc f.rm && (f.p || !f.w) && baseOk (!f.p || f.w) f.rn f.rd && (f.p || f.rm != f.rn)

/-- U16, U17, U22. -/
def HsImm.wellFormed (f : HsImm) : Bool :=
  notPc f.rd && (f.p || !f.w) && baseOk (!f.p || f.w) f.rn f.rd

/-- U16 for the pre-indexed word forms. -/
def SdtImmPre.wellFormed (f : SdtImmPre) : Bool := baseOk f.w f.rn f.rd

/-- U16 for the post-indexed word forms. -/
def SdtImmPost.wellFormed (f : SdtImmPost) : Bool := baseOk true f.rn f.rd

/-- U16 for the pre-indexed word forms. -/
def SdtRegPre.wellFormed (f : SdtRegPre) : Bool := baseOk f.w f.rn f.rd && notPc f.rm

/-- U16 for the post-indexed word forms. -/
def SdtRegPost.wellFormed (f : SdtRegPost) : Bool := baseOk true f.rn f.rd && notPc f.rm && f.rm != f.rn

/-- U13, U14 for LDM: with write-back the base is not in the list. -/
def BdtFields.ldmWellFormed (f : BdtFields) : Bool :=
  !allZero f.list && notPc f.rn && !(f.w && inList f.list f.rn)

/-- U13, U14 for STM: with write-back the base is not in the list unless it is its lowest register. -/
def BdtFields.stmWellFormed (f : BdtFields) : Bool :=
  !allZero f.list && notPc f.rn && (!(f.w && inList f.list f.rn) || noneBelow f.list f.rn)

/-- U13, U14, U15 for the user-bank STM. -/
def BdtFields.stmUserWellFormed (f : BdtFields) : Bool := !allZero f.list && notPc f.rn && !f.w

/-- U13, U14, U15 for the user-bank LDM. -/
def BdtLowFields.userWellFormed (f : BdtLowFields) : Bool := !allZero f.list && notPc f.rn && !f.w

/-- U14 for the exception-return LDM. -/
def BdtLowFields.returnWellFormed (f : BdtLowFields) : Bool :=
  notPc f.rn && !(f.w && inList (f.list.setWidth 16) f.rn)

/-- The instruction is one a program may use. -/
def Instr.wellFormed : Instr → Bool
  | .andImm _ | .andReg _ => true
  | .andRsr f => f.wellFormed
  | .eorImm _ | .eorReg _ => true
  | .eorRsr f => f.wellFormed
  | .subImm _ | .subReg _ => true
  | .subRsr f => f.wellFormed
  | .rsbImm _ | .rsbReg _ => true
  | .rsbRsr f => f.wellFormed
  | .addImm _ | .addReg _ => true
  | .addRsr f => f.wellFormed
  | .adcImm _ | .adcReg _ => true
  | .adcRsr f => f.wellFormed
  | .sbcImm _ | .sbcReg _ => true
  | .sbcRsr f => f.wellFormed
  | .rscImm _ | .rscReg _ => true
  | .rscRsr f | .tstImm f | .tstReg f | .tstRsr f | .teqImm f | .teqReg f | .teqRsr f | .cmpImm f | .cmpReg f
  | .cmpRsr f | .cmnImm f | .cmnReg f | .cmnRsr f => f.wellFormed
  | .orrImm _ | .orrReg _ => true
  | .orrRsr f => f.wellFormed
  | .movImm f | .movReg f | .movRsr f => f.moveWellFormed
  | .bicImm _ | .bicReg _ => true
  | .bicRsr f => f.wellFormed
  | .mvnImm f | .mvnReg f | .mvnRsr f => f.moveWellFormed
  | .mrs f | .msrReg f | .msrImm f | .bx f => f.wellFormed
  | .mul f => f.mulWellFormed
  | .mla f | .umull f | .umlal f | .smull f | .smlal f | .swp f | .swpb f | .strhReg f | .strhImm f
  | .ldrhReg f | .ldrhImm f | .ldrsbReg f | .ldrsbImm f | .ldrshReg f | .ldrshImm f | .ldrImmPre f
  | .ldrImmPost f => f.wellFormed
  | .ldrtImm f => f.wellFormed && notPc f.rd
  | .strImmPre f | .strImmPost f => f.wellFormed
  | .strtImm f | .ldrbImmPre f | .ldrbImmPost f | .ldrbtImm f | .strbImmPre f | .strbImmPost f | .strbtImm f => f.wellFormed && notPc f.rd
  | .ldrRegPre f | .ldrRegPost f => f.wellFormed
  | .ldrtReg f => f.wellFormed && notPc f.rd
  | .strRegPre f | .strRegPost f => f.wellFormed
  | .strtReg f | .ldrbRegPre f | .ldrbRegPost f | .ldrbtReg f | .strbRegPre f | .strbRegPost f | .strbtReg f => f.wellFormed && notPc f.rd
  | .ldm f => f.ldmWellFormed
  | .ldmUser f => f.userWellFormed
  | .ldmReturn f => f.returnWellFormed
  | .stm f => f.stmWellFormed
  | .stmUser f => f.stmUserWellFormed
  | .b _ | .bl _ | .stc _ | .ldc _ | .cdp _ | .mcr _ | .mrc _ | .swi _ | .und _ => true
  | .tLslImm _ _ _ | .tLsrImm _ _ _ | .tAsrImm _ _ _ | .tAddReg _ _ _ | .tSubReg _ _ _ | .tAddImm3 _ _ _
  | .tSubImm3 _ _ _ => true
  | .tMovImm8 _ _ | .tCmpImm8 _ _ | .tAddImm8 _ _ | .tSubImm8 _ _ | .tAnd _ _ | .tEor _ _ | .tLsl _ _
  | .tLsr _ _ | .tAsr _ _ | .tAdc _ _ | .tSbc _ _ | .tRor _ _ | .tTst _ _ | .tNeg _ _ | .tCmp _ _ | .tCmn _ _
  | .tOrr _ _ | .tMul _ _ | .tBic _ _ | .tMvn _ _ => true
  | .tAddHi h1 h2 _ _ | .tCmpHi h1 h2 _ _ | .tMovHi h1 h2 _ _ => h1 || h2
  | .tBx _ _ sbz => allZero sbz
  | .tLdrPc _ _ => true
  | .tStrReg _ _ _ | .tStrbReg _ _ _ | .tLdrReg _ _ _ | .tLdrbReg _ _ _ | .tStrhReg _ _ _ | .tLdsbReg _ _ _
  | .tLdrhReg _ _ _ | .tLdshReg _ _ _ | .tStrImm _ _ _ | .tLdrImm _ _ _ | .tStrbImm _ _ _ | .tLdrbImm _ _ _
  | .tStrhImm _ _ _ | .tLdrhImm _ _ _ => true
  | .tStrSp _ _ | .tLdrSp _ _ | .tAddPc _ _ | .tAddSp _ _ => true
  | .tIncSp _ | .tDecSp _ => true
  | .tPush r rlist | .tPop r rlist => r || !allZero rlist
  | .tStmia rb rlist => !allZero rlist && (!inList (rlist.setWidth 16) rb.slot || noneBelow (rlist.setWidth 16) rb.slot)
  | .tLdmia rb rlist => !allZero rlist && !inList (rlist.setWidth 16) rb.slot
  | .tBeq _ | .tBne _ | .tBcs _ | .tBcc _ | .tBmi _ | .tBpl _ | .tBvs _ | .tBvc _ | .tBhi _ | .tBls _
  | .tBge _ | .tBlt _ | .tBgt _ | .tBle _ | .tUnd _ | .tSwi _ | .tB _ | .tBlFirst _ | .tBlSecond _ => true

end Sys2Proof
end

