-- ==== Sys2Proof/Decode.lean ====
section
/-! DEFINITION. The decoder and the encoder of both instruction sets, from the formats of spec/30_encoding.md. Decoding
follows the trees of R128 and R129, takes each field out of the word once, and rejects by name every word with no row
(R131). Should-be-zero and should-be-one fields are not tested (R133). -/

namespace Sys2Proof

/-- Bits `lo + n - 1` down to `lo` of a word. -/
def fld (x : BitVec w) (lo n : Nat) : BitVec n := x.extractLsb' lo n

/-- Bit `i` of a word. -/
def bit (x : BitVec w) (i : Nat) : Bool := fld x i 1 == 1#1

/-- Why a word has no row (R131): the space it lies in, or too few bytes to make a word. -/
inductive Reject where
  /-- ARM bits 7:4 = 1001 outside MUL, MLA, the long multiplies and SWP. -/
  | armMultiplySpace
  /-- ARM signed halfword and byte transfers with L = 0 (R276). -/
  | armSignedStoreSpace
  /-- ARM bits 27:23 = 00010, bit 20 = 0 outside MRS, MSR and BX. -/
  | armMiscSpace
  /-- ARM bits 27:20 = 0011 0x00. -/
  | armImmediateMiscSpace
  /-- THUMB 0x4780 to 0x47FF: BX with H1 = 1. -/
  | thumbBxHigh
  /-- THUMB 1011 outside formats 13 and 14. -/
  | thumbMiscSpace
  /-- THUMB 11101. -/
  | thumbLongBranchSpace
  /-- Fewer bytes than an instruction of this state has. -/
  | truncated
  deriving DecidableEq, Repr

/-- The condition field's encoding (R155). -/
def Cond.bits : Cond → BitVec 4
  | .eq => 0#4
  | .ne => 1#4
  | .cs => 2#4
  | .cc => 3#4
  | .mi => 4#4
  | .pl => 5#4
  | .vs => 6#4
  | .vc => 7#4
  | .hi => 8#4
  | .ls => 9#4
  | .ge => 10#4
  | .lt => 11#4
  | .gt => 12#4
  | .le => 13#4
  | .al => 14#4
  | .nv => 15#4

/-- The condition a field value names (R155). -/
def Cond.ofBits (b : BitVec 4) : Cond :=
  match b with
  | 0#4 => .eq
  | 1#4 => .ne
  | 2#4 => .cs
  | 3#4 => .cc
  | 4#4 => .mi
  | 5#4 => .pl
  | 6#4 => .vs
  | 7#4 => .vc
  | 8#4 => .hi
  | 9#4 => .ls
  | 10#4 => .ge
  | 11#4 => .lt
  | 12#4 => .gt
  | 13#4 => .le
  | 14#4 => .al
  | _ => .nv

/-- The shift type's encoding (R103). -/
def ShiftType.bits : ShiftType → BitVec 2
  | .lsl => 0#2
  | .lsr => 1#2
  | .asr => 2#2
  | .ror => 3#2

/-- The shift type a field value names (R103). -/
def ShiftType.ofBits (b : BitVec 2) : ShiftType :=
  match b with
  | 0#2 => .lsl
  | 1#2 => .lsr
  | 2#2 => .asr
  | _ => .ror

/-- The condition field of an ARM word: bits 31 to 28. -/
def condOf (x : Word) : Cond := .ofBits (fld x 28 4)

/-- The fields of an A.DPI word (R102). -/
def DpImm.ofWord (x : Word) : DpImm where
  cond := condOf x
  s := bit x 20
  rn := fld x 16 4
  rd := fld x 12 4
  rotate := fld x 8 4
  imm8 := fld x 0 8

/-- The word of an A.DPI word (R102). -/
def DpImm.toWord (op : BitVec 4) (f : DpImm) : Word :=
  f.cond.bits ++ 0b001#3 ++ op ++ (BitVec.ofBool f.s) ++ f.rn ++ f.rd ++ f.rotate ++ f.imm8

/-- The fields of an A.DPR word (R103). -/
def DpReg.ofWord (x : Word) : DpReg where
  cond := condOf x
  s := bit x 20
  rn := fld x 16 4
  rd := fld x 12 4
  shiftImm := fld x 7 5
  type := .ofBits (fld x 5 2)
  rm := fld x 0 4

/-- The word of an A.DPR word (R103). -/
def DpReg.toWord (op : BitVec 4) (f : DpReg) : Word :=
  f.cond.bits ++ 0b000#3 ++ op ++ (BitVec.ofBool f.s) ++ f.rn ++ f.rd ++ f.shiftImm ++ f.type.bits ++ 0#1 ++ f.rm

/-- The fields of an A.DPRS word (R104). -/
def DpRsr.ofWord (x : Word) : DpRsr where
  cond := condOf x
  s := bit x 20
  rn := fld x 16 4
  rd := fld x 12 4
  rs := fld x 8 4
  type := .ofBits (fld x 5 2)
  rm := fld x 0 4

/-- The word of an A.DPRS word (R104). -/
def DpRsr.toWord (op : BitVec 4) (f : DpRsr) : Word :=
  f.cond.bits ++ 0b000#3 ++ op ++ (BitVec.ofBool f.s) ++ f.rn ++ f.rd ++ f.rs ++ 0#1 ++ f.type.bits ++ 1#1 ++ f.rm

/-- The fields of an A.DPI word of the compare group: S = 1 (R105). -/
def CmpImm.ofWord (x : Word) : CmpImm where
  cond := condOf x
  rn := fld x 16 4
  rdSbz := fld x 12 4
  rotate := fld x 8 4
  imm8 := fld x 0 8

/-- The word of an A.DPI word of the compare group: S = 1 (R105). -/
def CmpImm.toWord (op : BitVec 4) (f : CmpImm) : Word :=
  f.cond.bits ++ 0b001#3 ++ op ++ 1#1 ++ f.rn ++ f.rdSbz ++ f.rotate ++ f.imm8

/-- The fields of an A.DPR word of the compare group: S = 1 (R105). -/
def CmpReg.ofWord (x : Word) : CmpReg where
  cond := condOf x
  rn := fld x 16 4
  rdSbz := fld x 12 4
  shiftImm := fld x 7 5
  type := .ofBits (fld x 5 2)
  rm := fld x 0 4

/-- The word of an A.DPR word of the compare group: S = 1 (R105). -/
def CmpReg.toWord (op : BitVec 4) (f : CmpReg) : Word :=
  f.cond.bits ++ 0b000#3 ++ op ++ 1#1 ++ f.rn ++ f.rdSbz ++ f.shiftImm ++ f.type.bits ++ 0#1 ++ f.rm

/-- The fields of an A.DPRS word of the compare group: S = 1 (R105). -/
def CmpRsr.ofWord (x : Word) : CmpRsr where
  cond := condOf x
  rn := fld x 16 4
  rdSbz := fld x 12 4
  rs := fld x 8 4
  type := .ofBits (fld x 5 2)
  rm := fld x 0 4

/-- The word of an A.DPRS word of the compare group: S = 1 (R105). -/
def CmpRsr.toWord (op : BitVec 4) (f : CmpRsr) : Word :=
  f.cond.bits ++ 0b000#3 ++ op ++ 1#1 ++ f.rn ++ f.rdSbz ++ f.rs ++ 0#1 ++ f.type.bits ++ 1#1 ++ f.rm

/-- The fields of an A.MRS word (R106). -/
def MrsFields.ofWord (x : Word) : MrsFields where
  cond := condOf x
  r := bit x 22
  sbo := fld x 16 4
  rd := fld x 12 4
  sbzHi := fld x 8 4
  sbzLo := fld x 0 4

/-- The word of an A.MRS word (R106). -/
def MrsFields.toWord (f : MrsFields) : Word :=
  f.cond.bits ++ 0b00010#5 ++ (BitVec.ofBool f.r) ++ 0b00#2 ++ f.sbo ++ f.rd ++ f.sbzHi ++ 0#4 ++ f.sbzLo

/-- The fields of an A.MSRR word (R107). -/
def MsrRegFields.ofWord (x : Word) : MsrRegFields where
  cond := condOf x
  r := bit x 22
  fieldMask := fld x 16 4
  sbo := fld x 12 4
  sbz := fld x 8 4
  rm := fld x 0 4

/-- The word of an A.MSRR word (R107). -/
def MsrRegFields.toWord (f : MsrRegFields) : Word :=
  f.cond.bits ++ 0b00010#5 ++ (BitVec.ofBool f.r) ++ 0b10#2 ++ f.fieldMask ++ f.sbo ++ f.sbz ++ 0#4 ++ f.rm

/-- The fields of an A.MSRI word (R108). -/
def MsrImmFields.ofWord (x : Word) : MsrImmFields where
  cond := condOf x
  r := bit x 22
  fieldMask := fld x 16 4
  sbo := fld x 12 4
  rotate := fld x 8 4
  imm8 := fld x 0 8

/-- The word of an A.MSRI word (R108). -/
def MsrImmFields.toWord (f : MsrImmFields) : Word :=
  f.cond.bits ++ 0b00110#5 ++ (BitVec.ofBool f.r) ++ 0b10#2 ++ f.fieldMask ++ f.sbo ++ f.rotate ++ f.imm8

/-- The fields of an A.BX word (R109). -/
def BxFields.ofWord (x : Word) : BxFields where
  cond := condOf x
  sbo := fld x 8 12
  rm := fld x 0 4

/-- The word of an A.BX word (R109). -/
def BxFields.toWord (f : BxFields) : Word :=
  f.cond.bits ++ 0b00010010#8 ++ f.sbo ++ 0b0001#4 ++ f.rm

/-- The fields of an A.MUL word (R110). -/
def MulFields.ofWord (x : Word) : MulFields where
  cond := condOf x
  s := bit x 20
  rd := fld x 16 4
  rn := fld x 12 4
  rs := fld x 8 4
  rm := fld x 0 4

/-- The word of an A.MUL word (R110). -/
def MulFields.toWord (accumulate : Bool) (f : MulFields) : Word :=
  f.cond.bits ++ 0b000000#6 ++ (BitVec.ofBool accumulate) ++ (BitVec.ofBool f.s) ++ f.rd ++ f.rn ++ f.rs ++ 0b1001#4 ++ f.rm

/-- The fields of an A.MULL word (R111). -/
def MullFields.ofWord (x : Word) : MullFields where
  cond := condOf x
  s := bit x 20
  rdHi := fld x 16 4
  rdLo := fld x 12 4
  rs := fld x 8 4
  rm := fld x 0 4

/-- The word of an A.MULL word (R111). -/
def MullFields.toWord (signed : Bool) (accumulate : Bool) (f : MullFields) : Word :=
  f.cond.bits ++ 0b00001#5 ++ (BitVec.ofBool signed) ++ (BitVec.ofBool accumulate) ++ (BitVec.ofBool f.s) ++ f.rdHi ++ f.rdLo ++ f.rs ++ 0b1001#4 ++ f.rm

/-- The fields of an A.SWP word (R112). -/
def SwpFields.ofWord (x : Word) : SwpFields where
  cond := condOf x
  rn := fld x 16 4
  rd := fld x 12 4
  sbz := fld x 8 4
  rm := fld x 0 4

/-- The word of an A.SWP word (R112). -/
def SwpFields.toWord (byte : Bool) (f : SwpFields) : Word :=
  f.cond.bits ++ 0b00010#5 ++ (BitVec.ofBool byte) ++ 0b00#2 ++ f.rn ++ f.rd ++ f.sbz ++ 0b1001#4 ++ f.rm

/-- The fields of an A.HSR word (R113); `sh` is S H. -/
def HsReg.ofWord (x : Word) : HsReg where
  cond := condOf x
  p := bit x 24
  u := bit x 23
  w := bit x 21
  rn := fld x 16 4
  rd := fld x 12 4
  sbz := fld x 8 4
  rm := fld x 0 4

/-- The word of an A.HSR word (R113); `sh` is S H. -/
def HsReg.toWord (l : Bool) (sh : BitVec 2) (f : HsReg) : Word :=
  f.cond.bits ++ 0b000#3 ++ (BitVec.ofBool f.p) ++ (BitVec.ofBool f.u) ++ 0#1 ++ (BitVec.ofBool f.w) ++ (BitVec.ofBool l) ++ f.rn ++ f.rd ++ f.sbz ++ 1#1 ++ sh ++ 1#1 ++ f.rm

/-- The fields of an A.HSI word (R114); `sh` is S H. -/
def HsImm.ofWord (x : Word) : HsImm where
  cond := condOf x
  p := bit x 24
  u := bit x 23
  w := bit x 21
  rn := fld x 16 4
  rd := fld x 12 4
  immH := fld x 8 4
  immL := fld x 0 4

/-- The word of an A.HSI word (R114); `sh` is S H. -/
def HsImm.toWord (l : Bool) (sh : BitVec 2) (f : HsImm) : Word :=
  f.cond.bits ++ 0b000#3 ++ (BitVec.ofBool f.p) ++ (BitVec.ofBool f.u) ++ 1#1 ++ (BitVec.ofBool f.w) ++ (BitVec.ofBool l) ++ f.rn ++ f.rd ++ f.immH ++ 1#1 ++ sh ++ 1#1 ++ f.immL

/-- The fields of an A.SDTI word with P = 1 (R115). -/
def SdtImmPre.ofWord (x : Word) : SdtImmPre where
  cond := condOf x
  u := bit x 23
  w := bit x 21
  rn := fld x 16 4
  rd := fld x 12 4
  imm12 := fld x 0 12

/-- The word of an A.SDTI word with P = 1 (R115). -/
def SdtImmPre.toWord (byte : Bool) (l : Bool) (f : SdtImmPre) : Word :=
  f.cond.bits ++ 0b010#3 ++ 1#1 ++ (BitVec.ofBool f.u) ++ (BitVec.ofBool byte) ++ (BitVec.ofBool f.w) ++ (BitVec.ofBool l) ++ f.rn ++ f.rd ++ f.imm12

/-- The fields of an A.SDTI word with P = 0 and W = `t` (R115). -/
def SdtImmPost.ofWord (x : Word) : SdtImmPost where
  cond := condOf x
  u := bit x 23
  rn := fld x 16 4
  rd := fld x 12 4
  imm12 := fld x 0 12

/-- The word of an A.SDTI word with P = 0 and W = `t` (R115). -/
def SdtImmPost.toWord (byte : Bool) (t : Bool) (l : Bool) (f : SdtImmPost) : Word :=
  f.cond.bits ++ 0b010#3 ++ 0#1 ++ (BitVec.ofBool f.u) ++ (BitVec.ofBool byte) ++ (BitVec.ofBool t) ++ (BitVec.ofBool l) ++ f.rn ++ f.rd ++ f.imm12

/-- The fields of an A.SDTR word with P = 1 (R116). -/
def SdtRegPre.ofWord (x : Word) : SdtRegPre where
  cond := condOf x
  u := bit x 23
  w := bit x 21
  rn := fld x 16 4
  rd := fld x 12 4
  shiftImm := fld x 7 5
  type := .ofBits (fld x 5 2)
  rm := fld x 0 4

/-- The word of an A.SDTR word with P = 1 (R116). -/
def SdtRegPre.toWord (byte : Bool) (l : Bool) (f : SdtRegPre) : Word :=
  f.cond.bits ++ 0b011#3 ++ 1#1 ++ (BitVec.ofBool f.u) ++ (BitVec.ofBool byte) ++ (BitVec.ofBool f.w) ++ (BitVec.ofBool l) ++ f.rn ++ f.rd ++ f.shiftImm ++ f.type.bits ++ 0#1 ++ f.rm

/-- The fields of an A.SDTR word with P = 0 and W = `t` (R116). -/
def SdtRegPost.ofWord (x : Word) : SdtRegPost where
  cond := condOf x
  u := bit x 23
  rn := fld x 16 4
  rd := fld x 12 4
  shiftImm := fld x 7 5
  type := .ofBits (fld x 5 2)
  rm := fld x 0 4

/-- The word of an A.SDTR word with P = 0 and W = `t` (R116). -/
def SdtRegPost.toWord (byte : Bool) (t : Bool) (l : Bool) (f : SdtRegPost) : Word :=
  f.cond.bits ++ 0b011#3 ++ 0#1 ++ (BitVec.ofBool f.u) ++ (BitVec.ofBool byte) ++ (BitVec.ofBool t) ++ (BitVec.ofBool l) ++ f.rn ++ f.rd ++ f.shiftImm ++ f.type.bits ++ 0#1 ++ f.rm

/-- The fields of an A.BDT word with S = `user` (R117). -/
def BdtFields.ofWord (x : Word) : BdtFields where
  cond := condOf x
  p := bit x 24
  u := bit x 23
  w := bit x 21
  rn := fld x 16 4
  list := fld x 0 16

/-- The word of an A.BDT word with S = `user` (R117). -/
def BdtFields.toWord (user : Bool) (l : Bool) (f : BdtFields) : Word :=
  f.cond.bits ++ 0b100#3 ++ (BitVec.ofBool f.p) ++ (BitVec.ofBool f.u) ++ (BitVec.ofBool user) ++ (BitVec.ofBool f.w) ++ (BitVec.ofBool l) ++ f.rn ++ f.list

/-- The fields of an A.BDT load with S = 1 and `pc` as bit 15 of the list (R117). -/
def BdtLowFields.ofWord (x : Word) : BdtLowFields where
  cond := condOf x
  p := bit x 24
  u := bit x 23
  w := bit x 21
  rn := fld x 16 4
  list := fld x 0 15

/-- The word of an A.BDT load with S = 1 and `pc` as bit 15 of the list (R117). -/
def BdtLowFields.toWord (pc : Bool) (f : BdtLowFields) : Word :=
  f.cond.bits ++ 0b100#3 ++ (BitVec.ofBool f.p) ++ (BitVec.ofBool f.u) ++ 1#1 ++ (BitVec.ofBool f.w) ++ 1#1 ++ f.rn ++ (BitVec.ofBool pc) ++ f.list

/-- The fields of an A.B word (R118). -/
def BranchFields.ofWord (x : Word) : BranchFields where
  cond := condOf x
  offset24 := fld x 0 24

/-- The word of an A.B word (R118). -/
def BranchFields.toWord (link : Bool) (f : BranchFields) : Word :=
  f.cond.bits ++ 0b101#3 ++ (BitVec.ofBool link) ++ f.offset24

/-- The fields of an A.UND word (R119). -/
def UndFields.ofWord (x : Word) : UndFields where
  cond := condOf x
  anyHi := fld x 5 20
  anyLo := fld x 0 4

/-- The word of an A.UND word (R119). -/
def UndFields.toWord (f : UndFields) : Word :=
  f.cond.bits ++ 0b011#3 ++ f.anyHi ++ 1#1 ++ f.anyLo

/-- The fields of an A.CPDT word (R120). -/
def CpdtFields.ofWord (x : Word) : CpdtFields where
  cond := condOf x
  p := bit x 24
  u := bit x 23
  n := bit x 22
  w := bit x 21
  rn := fld x 16 4
  crd := fld x 12 4
  cpNum := fld x 8 4
  offset8 := fld x 0 8

/-- The word of an A.CPDT word (R120). -/
def CpdtFields.toWord (l : Bool) (f : CpdtFields) : Word :=
  f.cond.bits ++ 0b110#3 ++ (BitVec.ofBool f.p) ++ (BitVec.ofBool f.u) ++ (BitVec.ofBool f.n) ++ (BitVec.ofBool f.w) ++ (BitVec.ofBool l) ++ f.rn ++ f.crd ++ f.cpNum ++ f.offset8

/-- The fields of an A.CDP word (R120). -/
def CdpFields.ofWord (x : Word) : CdpFields where
  cond := condOf x
  cpOpc := fld x 20 4
  crn := fld x 16 4
  crd := fld x 12 4
  cpNum := fld x 8 4
  cpInfo := fld x 5 3
  crm := fld x 0 4

/-- The word of an A.CDP word (R120). -/
def CdpFields.toWord (f : CdpFields) : Word :=
  f.cond.bits ++ 0b1110#4 ++ f.cpOpc ++ f.crn ++ f.crd ++ f.cpNum ++ f.cpInfo ++ 0#1 ++ f.crm

/-- The fields of an A.CRT word (R120). -/
def CrtFields.ofWord (x : Word) : CrtFields where
  cond := condOf x
  cpOpc := fld x 21 3
  crn := fld x 16 4
  rd := fld x 12 4
  cpNum := fld x 8 4
  cpInfo := fld x 5 3
  crm := fld x 0 4

/-- The word of an A.CRT word (R120). -/
def CrtFields.toWord (l : Bool) (f : CrtFields) : Word :=
  f.cond.bits ++ 0b1110#4 ++ f.cpOpc ++ (BitVec.ofBool l) ++ f.crn ++ f.rd ++ f.cpNum ++ f.cpInfo ++ 1#1 ++ f.crm

/-- The fields of an A.SWI word (R121). -/
def SwiFields.ofWord (x : Word) : SwiFields where
  cond := condOf x
  comment24 := fld x 0 24

/-- The word of an A.SWI word (R121). -/
def SwiFields.toWord (f : SwiFields) : Word :=
  f.cond.bits ++ 0b1111#4 ++ f.comment24

/-- The A.DPI row of a word by its opcode field (R105). -/
def decodeDpImm (x : Word) : Instr :=
  match fld x 21 4 with
  | 0#4 => .andImm (.ofWord x)
  | 1#4 => .eorImm (.ofWord x)
  | 2#4 => .subImm (.ofWord x)
  | 3#4 => .rsbImm (.ofWord x)
  | 4#4 => .addImm (.ofWord x)
  | 5#4 => .adcImm (.ofWord x)
  | 6#4 => .sbcImm (.ofWord x)
  | 7#4 => .rscImm (.ofWord x)
  | 8#4 => .tstImm (.ofWord x)
  | 9#4 => .teqImm (.ofWord x)
  | 10#4 => .cmpImm (.ofWord x)
  | 11#4 => .cmnImm (.ofWord x)
  | 12#4 => .orrImm (.ofWord x)
  | 13#4 => .movImm (.ofWord x)
  | 14#4 => .bicImm (.ofWord x)
  | _ => .mvnImm (.ofWord x)

/-- The A.DPR row of a word by its opcode field (R105). -/
def decodeDpReg (x : Word) : Instr :=
  match fld x 21 4 with
  | 0#4 => .andReg (.ofWord x)
  | 1#4 => .eorReg (.ofWord x)
  | 2#4 => .subReg (.ofWord x)
  | 3#4 => .rsbReg (.ofWord x)
  | 4#4 => .addReg (.ofWord x)
  | 5#4 => .adcReg (.ofWord x)
  | 6#4 => .sbcReg (.ofWord x)
  | 7#4 => .rscReg (.ofWord x)
  | 8#4 => .tstReg (.ofWord x)
  | 9#4 => .teqReg (.ofWord x)
  | 10#4 => .cmpReg (.ofWord x)
  | 11#4 => .cmnReg (.ofWord x)
  | 12#4 => .orrReg (.ofWord x)
  | 13#4 => .movReg (.ofWord x)
  | 14#4 => .bicReg (.ofWord x)
  | _ => .mvnReg (.ofWord x)

/-- The A.DPRS row of a word by its opcode field (R105). -/
def decodeDpRsr (x : Word) : Instr :=
  match fld x 21 4 with
  | 0#4 => .andRsr (.ofWord x)
  | 1#4 => .eorRsr (.ofWord x)
  | 2#4 => .subRsr (.ofWord x)
  | 3#4 => .rsbRsr (.ofWord x)
  | 4#4 => .addRsr (.ofWord x)
  | 5#4 => .adcRsr (.ofWord x)
  | 6#4 => .sbcRsr (.ofWord x)
  | 7#4 => .rscRsr (.ofWord x)
  | 8#4 => .tstRsr (.ofWord x)
  | 9#4 => .teqRsr (.ofWord x)
  | 10#4 => .cmpRsr (.ofWord x)
  | 11#4 => .cmnRsr (.ofWord x)
  | 12#4 => .orrRsr (.ofWord x)
  | 13#4 => .movRsr (.ofWord x)
  | 14#4 => .bicRsr (.ofWord x)
  | _ => .mvnRsr (.ofWord x)

/-- Bits 27:25 = 000 with bits 7 and 4 both 1: multiplies, swaps, halfword and signed transfers (R128 step 1). -/
def decodeExtension (x : Word) : Except Reject Instr :=
  if fld x 5 2 = 0b00#2 then
    if fld x 23 5 = 0b00000#5 ∧ bit x 22 = false then
      .ok (if bit x 21 then .mla (.ofWord x) else .mul (.ofWord x))
    else if fld x 23 5 = 0b00001#5 then
      .ok (if bit x 22 then (if bit x 21 then .smlal (.ofWord x) else .smull (.ofWord x))
        else (if bit x 21 then .umlal (.ofWord x) else .umull (.ofWord x)))
    else if fld x 23 5 = 0b00010#5 ∧ fld x 20 2 = 0b00#2 then
      .ok (if bit x 22 then .swpb (.ofWord x) else .swp (.ofWord x))
    else .error .armMultiplySpace
  else if fld x 5 2 = 0b01#2 then
    .ok (if bit x 20 then (if bit x 22 then .ldrhImm (.ofWord x) else .ldrhReg (.ofWord x))
      else (if bit x 22 then .strhImm (.ofWord x) else .strhReg (.ofWord x)))
  else if bit x 20 then
    .ok (if fld x 5 2 = 0b10#2 then (if bit x 22 then .ldrsbImm (.ofWord x) else .ldrsbReg (.ofWord x))
      else (if bit x 22 then .ldrshImm (.ofWord x) else .ldrshReg (.ofWord x)))
  else .error .armSignedStoreSpace

/-- Bits 27:25 = 000, bits 24:23 = 10, bit 20 = 0, not an extension word: MRS, MSR, BX (R128 step 1). -/
def decodeMisc (x : Word) : Except Reject Instr :=
  if fld x 20 2 = 0b00#2 ∧ fld x 4 4 = 0b0000#4 then .ok (.mrs (.ofWord x))
  else if fld x 20 2 = 0b10#2 ∧ fld x 4 4 = 0b0000#4 then .ok (.msrReg (.ofWord x))
  else if fld x 20 8 = 0b00010010#8 ∧ fld x 4 4 = 0b0001#4 then .ok (.bx (.ofWord x))
  else .error .armMiscSpace

/-- Bits 27:25 = 010 (R128 step 3). -/
def decodeSdtImm (x : Word) : Instr :=
  if bit x 24 then
    if bit x 22 then (if bit x 20 then .ldrbImmPre (.ofWord x) else .strbImmPre (.ofWord x))
    else (if bit x 20 then .ldrImmPre (.ofWord x) else .strImmPre (.ofWord x))
  else if bit x 21 then
    if bit x 22 then (if bit x 20 then .ldrbtImm (.ofWord x) else .strbtImm (.ofWord x))
    else (if bit x 20 then .ldrtImm (.ofWord x) else .strtImm (.ofWord x))
  else
    if bit x 22 then (if bit x 20 then .ldrbImmPost (.ofWord x) else .strbImmPost (.ofWord x))
    else (if bit x 20 then .ldrImmPost (.ofWord x) else .strImmPost (.ofWord x))

/-- Bits 27:25 = 011 with bit 4 = 0 (R128 step 4). -/
def decodeSdtReg (x : Word) : Instr :=
  if bit x 24 then
    if bit x 22 then (if bit x 20 then .ldrbRegPre (.ofWord x) else .strbRegPre (.ofWord x))
    else (if bit x 20 then .ldrRegPre (.ofWord x) else .strRegPre (.ofWord x))
  else if bit x 21 then
    if bit x 22 then (if bit x 20 then .ldrbtReg (.ofWord x) else .strbtReg (.ofWord x))
    else (if bit x 20 then .ldrtReg (.ofWord x) else .strtReg (.ofWord x))
  else
    if bit x 22 then (if bit x 20 then .ldrbRegPost (.ofWord x) else .strbRegPost (.ofWord x))
    else (if bit x 20 then .ldrRegPost (.ofWord x) else .strRegPost (.ofWord x))

/-- Bits 27:25 = 100 (R128 step 5); the two LDM rows with S = 1 differ in bit 15. -/
def decodeBlock (x : Word) : Instr :=
  if bit x 20 then
    if bit x 22 then (if bit x 15 then .ldmReturn (.ofWord x) else .ldmUser (.ofWord x))
    else .ldm (.ofWord x)
  else (if bit x 22 then .stmUser (.ofWord x) else .stm (.ofWord x))

/-- Bits 27:25 = 111 (R128 steps 7 and 8). -/
def decodeHigh (x : Word) : Instr :=
  if bit x 24 then .swi (.ofWord x)
  else if bit x 4 then (if bit x 20 then .mrc (.ofWord x) else .mcr (.ofWord x))
  else .cdp (.ofWord x)

/-- The ARM decode tree of R128. -/
def decodeArm (x : Word) : Except Reject Instr :=
  if fld x 25 3 = 0b000#3 then
    if bit x 4 ∧ bit x 7 then decodeExtension x
    else if fld x 23 2 = 0b10#2 ∧ bit x 20 = false then decodeMisc x
    else .ok (if bit x 4 then decodeDpRsr x else decodeDpReg x)
  else if fld x 25 3 = 0b001#3 then
    if fld x 23 2 = 0b10#2 ∧ bit x 20 = false then
      if bit x 21 then .ok (.msrImm (.ofWord x)) else .error .armImmediateMiscSpace
    else .ok (decodeDpImm x)
  else if fld x 25 3 = 0b010#3 then .ok (decodeSdtImm x)
  else if fld x 25 3 = 0b011#3 then
    .ok (if bit x 4 then .und (.ofWord x) else decodeSdtReg x)
  else if fld x 25 3 = 0b100#3 then .ok (decodeBlock x)
  else if fld x 25 3 = 0b101#3 then .ok (if bit x 24 then .bl (.ofWord x) else .b (.ofWord x))
  else if fld x 25 3 = 0b110#3 then .ok (if bit x 20 then .ldc (.ofWord x) else .stc (.ofWord x))
  else .ok (decodeHigh x)

/-- THUMB 000xx: formats 1 and 2 (R129). -/
def decodeThumb000 (h : Half) : Instr :=
  let a := fld h 6 3
  let s := fld h 3 3
  let d := fld h 0 3
  if fld h 11 2 = 0b00#2 then .tLslImm (fld h 6 5) s d
  else if fld h 11 2 = 0b01#2 then .tLsrImm (fld h 6 5) s d
  else if fld h 11 2 = 0b10#2 then .tAsrImm (fld h 6 5) s d
  else if bit h 10 then (if bit h 9 then .tSubImm3 a s d else .tAddImm3 a s d)
  else (if bit h 9 then .tSubReg a s d else .tAddReg a s d)

/-- THUMB 001xx: format 3 (R129). -/
def decodeThumb001 (h : Half) : Instr :=
  let d := fld h 8 3
  let i := fld h 0 8
  if bit h 12 then (if bit h 11 then .tSubImm8 d i else .tAddImm8 d i)
  else (if bit h 11 then .tCmpImm8 d i else .tMovImm8 d i)

/-- THUMB 010000: format 4 by bits 9:6 (R122, R129). -/
def decodeThumbAlu (h : Half) : Instr :=
  let s := fld h 3 3
  let d := fld h 0 3
  match fld h 6 4 with
  | 0#4 => .tAnd s d
  | 1#4 => .tEor s d
  | 2#4 => .tLsl s d
  | 3#4 => .tLsr s d
  | 4#4 => .tAsr s d
  | 5#4 => .tAdc s d
  | 6#4 => .tSbc s d
  | 7#4 => .tRor s d
  | 8#4 => .tTst s d
  | 9#4 => .tNeg s d
  | 10#4 => .tCmp s d
  | 11#4 => .tCmn s d
  | 12#4 => .tOrr s d
  | 13#4 => .tMul s d
  | 14#4 => .tBic s d
  | _ => .tMvn s d

/-- THUMB 010001: format 5 by bits 9:8 (R122, R129). -/
def decodeThumbHigh (h : Half) : Except Reject Instr :=
  let s := fld h 3 3
  let d := fld h 0 3
  if bit h 9 then
    if bit h 8 then (if bit h 7 then .error .thumbBxHigh else .ok (.tBx (bit h 6) s d))
    else .ok (.tMovHi (bit h 7) (bit h 6) s d)
  else .ok (if bit h 8 then .tCmpHi (bit h 7) (bit h 6) s d else .tAddHi (bit h 7) (bit h 6) s d)

/-- THUMB 0101: formats 7 and 8 (R123, R129). -/
def decodeThumbRegOffset (h : Half) : Instr :=
  let ro := fld h 6 3
  let rb := fld h 3 3
  let d := fld h 0 3
  if bit h 9 then
    if bit h 11 then (if bit h 10 then .tLdshReg ro rb d else .tLdrhReg ro rb d)
    else (if bit h 10 then .tLdsbReg ro rb d else .tStrhReg ro rb d)
  else
    if bit h 11 then (if bit h 10 then .tLdrbReg ro rb d else .tLdrReg ro rb d)
    else (if bit h 10 then .tStrbReg ro rb d else .tStrReg ro rb d)

/-- THUMB 011: format 9 (R123, R129). -/
def decodeThumbImmOffset (h : Half) : Instr :=
  let o := fld h 6 5
  let rb := fld h 3 3
  let d := fld h 0 3
  if bit h 12 then (if bit h 11 then .tLdrbImm o rb d else .tStrbImm o rb d)
  else (if bit h 11 then .tLdrImm o rb d else .tStrImm o rb d)

/-- THUMB 100: formats 10 and 11 (R123, R129). -/
def decodeThumb100 (h : Half) : Instr :=
  if bit h 12 then
    if bit h 11 then .tLdrSp (fld h 8 3) (fld h 0 8) else .tStrSp (fld h 8 3) (fld h 0 8)
  else
    if bit h 11 then .tLdrhImm (fld h 6 5) (fld h 3 3) (fld h 0 3) else .tStrhImm (fld h 6 5) (fld h 3 3) (fld h 0 3)

/-- THUMB 101: formats 12 to 14 (R124, R129). -/
def decodeThumb101 (h : Half) : Except Reject Instr :=
  if bit h 12 then
    if fld h 9 3 = 0b000#3 ∧ bit h 8 = false then
      .ok (if bit h 7 then .tDecSp (fld h 0 7) else .tIncSp (fld h 0 7))
    else if fld h 9 2 = 0b10#2 then
      .ok (if bit h 11 then .tPop (bit h 8) (fld h 0 8) else .tPush (bit h 8) (fld h 0 8))
    else .error .thumbMiscSpace
  else .ok (if bit h 11 then .tAddSp (fld h 8 3) (fld h 0 8) else .tAddPc (fld h 8 3) (fld h 0 8))

/-- THUMB 1101: formats 16 and 17 and the undefined pattern, by bits 11:8 (R125, R129). -/
def decodeThumbCond (h : Half) : Instr :=
  let o := fld h 0 8
  match fld h 8 4 with
  | 0#4 => .tBeq o
  | 1#4 => .tBne o
  | 2#4 => .tBcs o
  | 3#4 => .tBcc o
  | 4#4 => .tBmi o
  | 5#4 => .tBpl o
  | 6#4 => .tBvs o
  | 7#4 => .tBvc o
  | 8#4 => .tBhi o
  | 9#4 => .tBls o
  | 10#4 => .tBge o
  | 11#4 => .tBlt o
  | 12#4 => .tBgt o
  | 13#4 => .tBle o
  | 14#4 => .tUnd o
  | _ => .tSwi o

/-- THUMB 110: format 15, then 1101 (R129). -/
def decodeThumb110 (h : Half) : Instr :=
  if bit h 12 then decodeThumbCond h
  else (if bit h 11 then .tLdmia (fld h 8 3) (fld h 0 8) else .tStmia (fld h 8 3) (fld h 0 8))

/-- THUMB 111: formats 18 and 19 (R125, R129). -/
def decodeThumb111 (h : Half) : Except Reject Instr :=
  if bit h 12 then .ok (if bit h 11 then .tBlSecond (fld h 0 11) else .tBlFirst (fld h 0 11))
  else (if bit h 11 then .error .thumbLongBranchSpace else .ok (.tB (fld h 0 11)))

/-- THUMB 010: formats 4 to 8 (R129). -/
def decodeThumb010 (h : Half) : Except Reject Instr :=
  if bit h 12 then .ok (decodeThumbRegOffset h)
  else if bit h 11 then .ok (.tLdrPc (fld h 8 3) (fld h 0 8))
  else if bit h 10 then decodeThumbHigh h
  else .ok (decodeThumbAlu h)

/-- The THUMB decode tree of R129. -/
def decodeThumb (h : Half) : Except Reject Instr :=
  if fld h 13 3 = 0b000#3 then .ok (decodeThumb000 h)
  else if fld h 13 3 = 0b001#3 then .ok (decodeThumb001 h)
  else if fld h 13 3 = 0b010#3 then decodeThumb010 h
  else if fld h 13 3 = 0b011#3 then .ok (decodeThumbImmOffset h)
  else if fld h 13 3 = 0b100#3 then .ok (decodeThumb100 h)
  else if fld h 13 3 = 0b101#3 then decodeThumb101 h
  else if fld h 13 3 = 0b110#3 then .ok (decodeThumb110 h)
  else decodeThumb111 h

/-- An encoded instruction: one ARM word or one THUMB halfword (R100). -/
inductive Code where
  | arm (x : Word)
  | thumb (h : Half)
  deriving DecidableEq, Repr

/-- Decoding, a pure function of the bits and `CPSR.T` (R101). -/
def decode : Code → Except Reject Instr
  | .arm x => decodeArm x
  | .thumb h => decodeThumb h

/-- The bytes of an instruction, lowest address first: little-endian (R66, R67). -/
def Code.bytes : Code → List Byte
  | .arm x => [fld x 0 8, fld x 8 8, fld x 16 8, fld x 24 8]
  | .thumb h => [fld h 0 8, fld h 8 8]

/-- Decoding from bytes: the instruction and the bytes after it (R67, R100). -/
def decodeBytes (thumb : Bool) (bs : List Byte) : Except Reject (Instr × List Byte) :=
  match thumb, bs with
  | false, b0 :: b1 :: b2 :: b3 :: rest => (decodeArm (b3 ++ b2 ++ b1 ++ b0)).map (·, rest)
  | true, b0 :: b1 :: rest => (decodeThumb (b1 ++ b0)).map (·, rest)
  | _, _ => .error .truncated

/-- The instruction the decoder reads from an opcode-table word of `nbits` bits: 16 for a THUMB row, 32 for an ARM row. -/
def decodeTableWord (nbits w : Nat) : Option Instr :=
  let code := if nbits = 16 then Code.thumb (BitVec.ofNat 16 w) else Code.arm (BitVec.ofNat 32 w)
  match decodeBytes (nbits = 16) code.bytes with
  | .ok (i, _) => some i
  | .error _ => none

/-- The encoding of an instruction (R102 to R125). -/
def encode : Instr → Code
  | .andImm f => .arm (f.toWord 0#4)
  | .andReg f => .arm (f.toWord 0#4)
  | .andRsr f => .arm (f.toWord 0#4)
  | .eorImm f => .arm (f.toWord 1#4)
  | .eorReg f => .arm (f.toWord 1#4)
  | .eorRsr f => .arm (f.toWord 1#4)
  | .subImm f => .arm (f.toWord 2#4)
  | .subReg f => .arm (f.toWord 2#4)
  | .subRsr f => .arm (f.toWord 2#4)
  | .rsbImm f => .arm (f.toWord 3#4)
  | .rsbReg f => .arm (f.toWord 3#4)
  | .rsbRsr f => .arm (f.toWord 3#4)
  | .addImm f => .arm (f.toWord 4#4)
  | .addReg f => .arm (f.toWord 4#4)
  | .addRsr f => .arm (f.toWord 4#4)
  | .adcImm f => .arm (f.toWord 5#4)
  | .adcReg f => .arm (f.toWord 5#4)
  | .adcRsr f => .arm (f.toWord 5#4)
  | .sbcImm f => .arm (f.toWord 6#4)
  | .sbcReg f => .arm (f.toWord 6#4)
  | .sbcRsr f => .arm (f.toWord 6#4)
  | .rscImm f => .arm (f.toWord 7#4)
  | .rscReg f => .arm (f.toWord 7#4)
  | .rscRsr f => .arm (f.toWord 7#4)
  | .tstImm f => .arm (f.toWord 8#4)
  | .tstReg f => .arm (f.toWord 8#4)
  | .tstRsr f => .arm (f.toWord 8#4)
  | .teqImm f => .arm (f.toWord 9#4)
  | .teqReg f => .arm (f.toWord 9#4)
  | .teqRsr f => .arm (f.toWord 9#4)
  | .cmpImm f => .arm (f.toWord 10#4)
  | .cmpReg f => .arm (f.toWord 10#4)
  | .cmpRsr f => .arm (f.toWord 10#4)
  | .cmnImm f => .arm (f.toWord 11#4)
  | .cmnReg f => .arm (f.toWord 11#4)
  | .cmnRsr f => .arm (f.toWord 11#4)
  | .orrImm f => .arm (f.toWord 12#4)
  | .orrReg f => .arm (f.toWord 12#4)
  | .orrRsr f => .arm (f.toWord 12#4)
  | .movImm f => .arm (f.toWord 13#4)
  | .movReg f => .arm (f.toWord 13#4)
  | .movRsr f => .arm (f.toWord 13#4)
  | .bicImm f => .arm (f.toWord 14#4)
  | .bicReg f => .arm (f.toWord 14#4)
  | .bicRsr f => .arm (f.toWord 14#4)
  | .mvnImm f => .arm (f.toWord 15#4)
  | .mvnReg f => .arm (f.toWord 15#4)
  | .mvnRsr f => .arm (f.toWord 15#4)
  | .mrs f => .arm (f.toWord)
  | .msrReg f => .arm (f.toWord)
  | .msrImm f => .arm (f.toWord)
  | .bx f => .arm (f.toWord)
  | .mul f => .arm (f.toWord false)
  | .mla f => .arm (f.toWord true)
  | .umull f => .arm (f.toWord false false)
  | .umlal f => .arm (f.toWord false true)
  | .smull f => .arm (f.toWord true false)
  | .smlal f => .arm (f.toWord true true)
  | .swp f => .arm (f.toWord false)
  | .swpb f => .arm (f.toWord true)
  | .strhReg f => .arm (f.toWord false 0b01#2)
  | .strhImm f => .arm (f.toWord false 0b01#2)
  | .ldrhReg f => .arm (f.toWord true 0b01#2)
  | .ldrhImm f => .arm (f.toWord true 0b01#2)
  | .ldrsbReg f => .arm (f.toWord true 0b10#2)
  | .ldrsbImm f => .arm (f.toWord true 0b10#2)
  | .ldrshReg f => .arm (f.toWord true 0b11#2)
  | .ldrshImm f => .arm (f.toWord true 0b11#2)
  | .ldrImmPre f => .arm (f.toWord false true)
  | .ldrImmPost f => .arm (f.toWord false false true)
  | .ldrtImm f => .arm (f.toWord false true true)
  | .strImmPre f => .arm (f.toWord false false)
  | .strImmPost f => .arm (f.toWord false false false)
  | .strtImm f => .arm (f.toWord false true false)
  | .ldrbImmPre f => .arm (f.toWord true true)
  | .ldrbImmPost f => .arm (f.toWord true false true)
  | .ldrbtImm f => .arm (f.toWord true true true)
  | .strbImmPre f => .arm (f.toWord true false)
  | .strbImmPost f => .arm (f.toWord true false false)
  | .strbtImm f => .arm (f.toWord true true false)
  | .ldrRegPre f => .arm (f.toWord false true)
  | .ldrRegPost f => .arm (f.toWord false false true)
  | .ldrtReg f => .arm (f.toWord false true true)
  | .strRegPre f => .arm (f.toWord false false)
  | .strRegPost f => .arm (f.toWord false false false)
  | .strtReg f => .arm (f.toWord false true false)
  | .ldrbRegPre f => .arm (f.toWord true true)
  | .ldrbRegPost f => .arm (f.toWord true false true)
  | .ldrbtReg f => .arm (f.toWord true true true)
  | .strbRegPre f => .arm (f.toWord true false)
  | .strbRegPost f => .arm (f.toWord true false false)
  | .strbtReg f => .arm (f.toWord true true false)
  | .ldm f => .arm (f.toWord false true)
  | .ldmUser f => .arm (f.toWord false)
  | .ldmReturn f => .arm (f.toWord true)
  | .stm f => .arm (f.toWord false false)
  | .stmUser f => .arm (f.toWord true false)
  | .b f => .arm (f.toWord false)
  | .bl f => .arm (f.toWord true)
  | .stc f => .arm (f.toWord false)
  | .ldc f => .arm (f.toWord true)
  | .cdp f => .arm (f.toWord)
  | .mcr f => .arm (f.toWord false)
  | .mrc f => .arm (f.toWord true)
  | .swi f => .arm (f.toWord)
  | .und f => .arm (f.toWord)
  | .tLslImm offset5 rs rd => .thumb (0b000#3 ++ 0#2 ++ offset5 ++ rs ++ rd)
  | .tLsrImm offset5 rs rd => .thumb (0b000#3 ++ 1#2 ++ offset5 ++ rs ++ rd)
  | .tAsrImm offset5 rs rd => .thumb (0b000#3 ++ 2#2 ++ offset5 ++ rs ++ rd)
  | .tAddReg rn rs rd => .thumb (0b00011#5 ++ 0#1 ++ 0#1 ++ rn ++ rs ++ rd)
  | .tSubReg rn rs rd => .thumb (0b00011#5 ++ 0#1 ++ 1#1 ++ rn ++ rs ++ rd)
  | .tAddImm3 imm3 rs rd => .thumb (0b00011#5 ++ 1#1 ++ 0#1 ++ imm3 ++ rs ++ rd)
  | .tSubImm3 imm3 rs rd => .thumb (0b00011#5 ++ 1#1 ++ 1#1 ++ imm3 ++ rs ++ rd)
  | .tMovImm8 rd imm8 => .thumb (0b001#3 ++ 0#2 ++ rd ++ imm8)
  | .tCmpImm8 rd imm8 => .thumb (0b001#3 ++ 1#2 ++ rd ++ imm8)
  | .tAddImm8 rd imm8 => .thumb (0b001#3 ++ 2#2 ++ rd ++ imm8)
  | .tSubImm8 rd imm8 => .thumb (0b001#3 ++ 3#2 ++ rd ++ imm8)
  | .tAnd rs rd => .thumb (0b010000#6 ++ 0#4 ++ rs ++ rd)
  | .tEor rs rd => .thumb (0b010000#6 ++ 1#4 ++ rs ++ rd)
  | .tLsl rs rd => .thumb (0b010000#6 ++ 2#4 ++ rs ++ rd)
  | .tLsr rs rd => .thumb (0b010000#6 ++ 3#4 ++ rs ++ rd)
  | .tAsr rs rd => .thumb (0b010000#6 ++ 4#4 ++ rs ++ rd)
  | .tAdc rs rd => .thumb (0b010000#6 ++ 5#4 ++ rs ++ rd)
  | .tSbc rs rd => .thumb (0b010000#6 ++ 6#4 ++ rs ++ rd)
  | .tRor rs rd => .thumb (0b010000#6 ++ 7#4 ++ rs ++ rd)
  | .tTst rs rd => .thumb (0b010000#6 ++ 8#4 ++ rs ++ rd)
  | .tNeg rs rd => .thumb (0b010000#6 ++ 9#4 ++ rs ++ rd)
  | .tCmp rs rd => .thumb (0b010000#6 ++ 10#4 ++ rs ++ rd)
  | .tCmn rs rd => .thumb (0b010000#6 ++ 11#4 ++ rs ++ rd)
  | .tOrr rs rd => .thumb (0b010000#6 ++ 12#4 ++ rs ++ rd)
  | .tMul rs rd => .thumb (0b010000#6 ++ 13#4 ++ rs ++ rd)
  | .tBic rs rd => .thumb (0b010000#6 ++ 14#4 ++ rs ++ rd)
  | .tMvn rs rd => .thumb (0b010000#6 ++ 15#4 ++ rs ++ rd)
  | .tAddHi h1 h2 rs rd => .thumb (0b010001#6 ++ 0#2 ++ BitVec.ofBool h1 ++ BitVec.ofBool h2 ++ rs ++ rd)
  | .tCmpHi h1 h2 rs rd => .thumb (0b010001#6 ++ 1#2 ++ BitVec.ofBool h1 ++ BitVec.ofBool h2 ++ rs ++ rd)
  | .tMovHi h1 h2 rs rd => .thumb (0b010001#6 ++ 2#2 ++ BitVec.ofBool h1 ++ BitVec.ofBool h2 ++ rs ++ rd)
  | .tBx h2 rs sbz => .thumb (0b010001110#9 ++ BitVec.ofBool h2 ++ rs ++ sbz)
  | .tLdrPc rd word8 => .thumb (0b01001#5 ++ rd ++ word8)
  | .tStrReg ro rb rd => .thumb (0b0101#4 ++ 0#2 ++ 0#1 ++ ro ++ rb ++ rd)
  | .tStrbReg ro rb rd => .thumb (0b0101#4 ++ 1#2 ++ 0#1 ++ ro ++ rb ++ rd)
  | .tLdrReg ro rb rd => .thumb (0b0101#4 ++ 2#2 ++ 0#1 ++ ro ++ rb ++ rd)
  | .tLdrbReg ro rb rd => .thumb (0b0101#4 ++ 3#2 ++ 0#1 ++ ro ++ rb ++ rd)
  | .tStrhReg ro rb rd => .thumb (0b0101#4 ++ 0#2 ++ 1#1 ++ ro ++ rb ++ rd)
  | .tLdsbReg ro rb rd => .thumb (0b0101#4 ++ 1#2 ++ 1#1 ++ ro ++ rb ++ rd)
  | .tLdrhReg ro rb rd => .thumb (0b0101#4 ++ 2#2 ++ 1#1 ++ ro ++ rb ++ rd)
  | .tLdshReg ro rb rd => .thumb (0b0101#4 ++ 3#2 ++ 1#1 ++ ro ++ rb ++ rd)
  | .tStrImm offset5 rb rd => .thumb (0b011#3 ++ 0#2 ++ offset5 ++ rb ++ rd)
  | .tLdrImm offset5 rb rd => .thumb (0b011#3 ++ 1#2 ++ offset5 ++ rb ++ rd)
  | .tStrbImm offset5 rb rd => .thumb (0b011#3 ++ 2#2 ++ offset5 ++ rb ++ rd)
  | .tLdrbImm offset5 rb rd => .thumb (0b011#3 ++ 3#2 ++ offset5 ++ rb ++ rd)
  | .tStrhImm offset5 rb rd => .thumb (0b1000#4 ++ 0#1 ++ offset5 ++ rb ++ rd)
  | .tLdrhImm offset5 rb rd => .thumb (0b1000#4 ++ 1#1 ++ offset5 ++ rb ++ rd)
  | .tStrSp rd word8 => .thumb (0b1001#4 ++ 0#1 ++ rd ++ word8)
  | .tLdrSp rd word8 => .thumb (0b1001#4 ++ 1#1 ++ rd ++ word8)
  | .tAddPc rd word8 => .thumb (0b1010#4 ++ 0#1 ++ rd ++ word8)
  | .tAddSp rd word8 => .thumb (0b1010#4 ++ 1#1 ++ rd ++ word8)
  | .tIncSp sword7 => .thumb (0b10110000#8 ++ 0#1 ++ sword7)
  | .tDecSp sword7 => .thumb (0b10110000#8 ++ 1#1 ++ sword7)
  | .tPush r rlist => .thumb (0b1011#4 ++ 0b010#3 ++ BitVec.ofBool r ++ rlist)
  | .tPop r rlist => .thumb (0b1011#4 ++ 0b110#3 ++ BitVec.ofBool r ++ rlist)
  | .tStmia rb rlist => .thumb (0b1100#4 ++ 0#1 ++ rb ++ rlist)
  | .tLdmia rb rlist => .thumb (0b1100#4 ++ 1#1 ++ rb ++ rlist)
  | .tBeq soffset8 => .thumb (0b1101#4 ++ 0#4 ++ soffset8)
  | .tBne soffset8 => .thumb (0b1101#4 ++ 1#4 ++ soffset8)
  | .tBcs soffset8 => .thumb (0b1101#4 ++ 2#4 ++ soffset8)
  | .tBcc soffset8 => .thumb (0b1101#4 ++ 3#4 ++ soffset8)
  | .tBmi soffset8 => .thumb (0b1101#4 ++ 4#4 ++ soffset8)
  | .tBpl soffset8 => .thumb (0b1101#4 ++ 5#4 ++ soffset8)
  | .tBvs soffset8 => .thumb (0b1101#4 ++ 6#4 ++ soffset8)
  | .tBvc soffset8 => .thumb (0b1101#4 ++ 7#4 ++ soffset8)
  | .tBhi soffset8 => .thumb (0b1101#4 ++ 8#4 ++ soffset8)
  | .tBls soffset8 => .thumb (0b1101#4 ++ 9#4 ++ soffset8)
  | .tBge soffset8 => .thumb (0b1101#4 ++ 10#4 ++ soffset8)
  | .tBlt soffset8 => .thumb (0b1101#4 ++ 11#4 ++ soffset8)
  | .tBgt soffset8 => .thumb (0b1101#4 ++ 12#4 ++ soffset8)
  | .tBle soffset8 => .thumb (0b1101#4 ++ 13#4 ++ soffset8)
  | .tUnd any => .thumb (0b11011110#8 ++ any)
  | .tSwi value8 => .thumb (0b11011111#8 ++ value8)
  | .tB offset11 => .thumb (0b11100#5 ++ offset11)
  | .tBlFirst offset11 => .thumb (0b11110#5 ++ offset11)
  | .tBlSecond offset11 => .thumb (0b11111#5 ++ offset11)

end Sys2Proof
end

