-- ==== Sys2Proof/Config.lean ====
section
/-! DEFINITION. What is fixed for the machine: the modes and exception classes of the architecture, the parameters of R6
the spec decides, and the values it leaves open, as constants with no body. -/

namespace Sys2Proof

/-- The seven privilege modes (R31). -/
inductive Mode where
  | usr | fiq | irq | svc | abt | und | sys
  deriving DecidableEq, Repr

/-- The mode numbers `M[4:0]` of R31. -/
def Mode.bits : Mode → BitVec 5
  | .usr => 0b10000#5
  | .fiq => 0b10001#5
  | .irq => 0b10010#5
  | .svc => 0b10011#5
  | .abt => 0b10111#5
  | .und => 0b11011#5
  | .sys => 0b11111#5

/-- The modes with a saved status register (R29, R31, R36): every privileged mode but System. -/
inductive ExcMode where
  | fiq | irq | svc | abt | und
  deriving DecidableEq, Repr

/-- The mode an exception mode is. -/
def ExcMode.mode : ExcMode → Mode
  | .fiq => .fiq
  | .irq => .irq
  | .svc => .svc
  | .abt => .abt
  | .und => .und

/-- The exception classes (R500). -/
inductive ExcClass where
  | reset | undefined | swi | prefetchAbort | dataAbort | irq | fiq
  deriving DecidableEq, Repr

/-- Cost categories of the decode tables (R130). -/
inductive CostCategory where
  | alu | aluRshift | mul | mla | mull | mlal | psr | load | store | loadM | storeM | swap | branch | blPrefix | trap
  deriving DecidableEq, Repr

/-- How many bytes an access moves: 1, 2 or 4 (R62, R63, R72). -/
inductive Width where
  | byte | half | word
  deriving DecidableEq, Repr

/-- The width as the core passes it to the interface, in bytes (R62). -/
def Width.bytes : Width → Nat
  | .byte => 1
  | .half => 2
  | .word => 4

/-- Whether an access reads or writes. -/
inductive AccessKind where
  | read | write
  deriving DecidableEq, Repr

/-- One call of `ReadMemory` or `WriteMemory`, as the collaborators hear it; `value` is what is written, 0 for a read (R62, R63). -/
structure Request where
  kind : AccessKind
  addr : Word
  width : Width
  value : Word
  deriving DecidableEq, Repr

/-- What a peripheral does when its time comes: drive its interrupt line, put a byte in memory, or what the device itself then does,
which no rule gives (R74, R77; log 3). -/
inductive Action where
  | line (level : Bool)
  | poke (addr : Word) (b : Byte)
  | own
  deriving DecidableEq, Repr

/-- A coming change of a peripheral, `delay` cycles after the one before it (R456; log 3). -/
structure Event where
  delay : Nat
  act : Action
  deriving DecidableEq, Repr

/-- All a device may do when it is called: a new state of its own, its line, what is coming next, bytes it puts in memory, and the
answer `halt_request` where the call was a write (R12, R43, R74, R77, R83; log 3). -/
structure Reply where
  memo : Nat
  level : Bool
  events : List Event
  pokes : List (Word × Byte)
  halt : Bool
  deriving DecidableEq, Repr, Inhabited

namespace Config

/-- `VECTOR_BASE` (R6, R75, R501). -/
def vectorBase : Word := 0#32

/-- `HALT_WRITE_NEEDS_PRIVILEGE` (R6, R454). -/
def haltWriteNeedsPrivilege : Bool := true

/-- `HALT_WAKE_REQUIRES_I_CLEAR` (R6, R457, R508). -/
def haltWakeRequiresIClear : Bool := false

/-- The part of `access_cycles` above its lower bound 1: an oracle answer, which no rule computes; `bus` is what the memory interface
remembers (R6 `MemIf`, R64; log 6). -/
opaque accessWait (bus : Nat) (r : Request) (sequential : Bool) : Nat

/-- What the memory interface remembers after an access (R43, R64; log 6). -/
opaque busAfter (bus : Nat) (r : Request) : Nat

/-- What a device does when it is called: its reply, from its own state, its clock and the memory it may read as they are then, to an
access of the core or, with none, to its own event's time having come. It may read its own registers in an access, all of memory
inside `Tick` (R6 `MemIf`, `PERIPHERALS`, R12, R77; log 3). -/
opaque device (memo elapsed : Nat) (mem : List Host.Cell) (cause : Option Request) : Reply

/-- `RefillCost(target, T)`: OPEN (R6, R157; log 8). -/
opaque refillCost (target : Word) (thumb : Bool) : Nat

/-- `ExcEntryCost(class)`: OPEN (R6, R505; log 8). -/
opaque excEntryCost (cls : ExcClass) : Nat

/-- A flag a multiply leaves meaningless: any bit, drawn afresh for each number (R247, U12; log 9). -/
opaque freeBit (draw : Nat) : Bool

/-- What MRS reads as the SPSR of a mode that has none: any value (R305, U3; log 10). -/
opaque freeWord (draw : Nat) : Word

end Config

end Sys2Proof
end

