-- ==== Sys2Proof/Machine/State.lean ====
section
/-! DEFINITION. The state of the machine as plain data: the register file and its banks, the status registers, the hidden
state the rules read, and what the collaborators behind the interfaces remember (R20 to R46); the reasons a step can stop;
the state after reset. -/

namespace Sys2Proof.Machine

/-- The 30 general physical registers other than `pc` (R22). -/
inductive PhysReg where
  | r0 | r1 | r2 | r3 | r4 | r5 | r6 | r7
  | r8usr | r9usr | r10usr | r11usr | r12usr
  | r8fiq | r9fiq | r10fiq | r11fiq | r12fiq
  | r13usr | r14usr | r13fiq | r14fiq | r13irq | r14irq | r13svc | r14svc | r13abt | r14abt | r13und | r14und
  deriving DecidableEq, Repr

/-- The place of each physical register in the register file. -/
def PhysReg.index : PhysReg → Fin 30
  | .r0 => 0 | .r1 => 1 | .r2 => 2 | .r3 => 3 | .r4 => 4 | .r5 => 5 | .r6 => 6 | .r7 => 7
  | .r8usr => 8 | .r9usr => 9 | .r10usr => 10 | .r11usr => 11 | .r12usr => 12
  | .r8fiq => 13 | .r9fiq => 14 | .r10fiq => 15 | .r11fiq => 16 | .r12fiq => 17
  | .r13usr => 18 | .r14usr => 19 | .r13fiq => 20 | .r14fiq => 21 | .r13irq => 22 | .r14irq => 23
  | .r13svc => 24 | .r14svc => 25 | .r13abt => 26 | .r14abt => 27 | .r13und => 28 | .r14und => 29

/-- The general registers of every bank (R22). -/
abbrev RegFile := Vector Word 30

/-- The current status register (R30). Bits 27:8 hold nothing and read as zero (R35). The mode is one of the seven by its
type: no step gives `CPSR.M` another value (R31; log 22). -/
structure Cpsr where
  n : Bool
  z : Bool
  c : Bool
  v : Bool
  i : Bool
  f : Bool
  t : Bool
  mode : Mode
  deriving DecidableEq, Repr

/-- A saved status register (R30, R36). Its M field is raw: it is not checked until it reaches the CPSR (U1). -/
structure Spsr where
  n : Bool
  z : Bool
  c : Bool
  v : Bool
  i : Bool
  f : Bool
  t : Bool
  m : BitVec 5
  deriving DecidableEq, Repr

/-- Memory as the collaborator's plain storage (R61, R66): addresses strictly rising, no byte equal to `Memory.unlisted`. -/
abbrev Memory := List Host.Cell

/-- One access as the memory interface remembers it (R43, R64). -/
structure Access where
  addr : Word
  width : Width
  deriving DecidableEq, Repr

/-- A byte access of the core that the platform, or a device at its own registers, watches for: address `addr`, and `value` in the bits of `mask`. -/
structure Trigger where
  addr : Word
  mask : Byte
  value : Byte
  deriving DecidableEq, Repr

/-- Addresses from `first` to `last`, both included. -/
structure Window where
  first : Word
  last : Word
  deriving DecidableEq, Repr

/-- An answer of a peripheral to an access of one of its registers that is known without the device: set its line, take new coming events
(R12, R503; log 3). -/
structure Response where
  kind : AccessKind
  on : Trigger
  level : Bool
  events : List Event
  deriving DecidableEq, Repr

/-- A peripheral, or another device behind the memory interface: its own state, the addresses of its registers, the cycles it was
ticked, its interrupt line, what it will do, its known answers (R12, R43, R74, R452, R456, R503; log 3). -/
structure Peripheral where
  memo : Nat
  windows : List Window
  elapsed : Nat
  level : Bool
  events : List Event
  responses : List Response
  deriving DecidableEq, Repr

/-- The collaborators behind the interfaces: what the memory interface remembers beside the previous access (R43, R64), the write masks of
Hardware Registers (R74; 0xFF where none is listed), the platform's halt writes (R83), and PERIPHERALS in tick order (R452, R461). -/
structure Platform where
  bus : Nat
  writeMasks : List Host.Cell
  haltWrites : List Trigger
  periphs : List Peripheral
  deriving DecidableEq, Repr

/-- Everything the spec gives the machine (INVENTORY.md lists it with its rules). `stepCost` is the cost of the step in
progress (R157), `budget` the cycles left in the quantum (R40), `lastAccess` the interface's memory of the previous access
(R64). `wrotePc` and `draws` are the model's own: this step's rule wrote pc (R157), and how many free values were
drawn (R247). -/
structure State where
  regs : RegFile
  pc : Word
  cpsr : Cpsr
  spsrFiq : Spsr
  spsrIrq : Spsr
  spsrSvc : Spsr
  spsrAbt : Spsr
  spsrUnd : Spsr
  halted : Bool
  mem : Memory
  lastAccess : Option Access
  plat : Platform
  stepCost : Nat
  budget : Int
  wrotePc : Bool
  draws : Nat
  deriving DecidableEq, Repr

/-- Why a step has no next state. -/
inductive Fault where
  /-- An illegal mode value would reach `CPSR.M` (R31, U1, D25). Raised by MSR to the CPSR and by the exception-return
  forms. Safe: the architecture calls the state unrecoverable. -/
  | illegalMode
  deriving DecidableEq, Repr

/-- Why an instruction is not given a meaning. -/
inductive Refusal where
  /-- No meaning yet; raised by a refused arm of `exec` only. Safe. -/
  | notModelled (mnemonic : String)
  /-- A block transfer with nothing to transfer: UNPREDICTABLE, and the spec gives it no behaviour (R288, U13, U24).
  Raised by LDM, STM, PUSH, POP, STMIA, LDMIA. Safe. -/
  | emptyRegisterList
  /-- A user-bank block transfer with write-back: UNPREDICTABLE, and the spec gives it no behaviour (R285, R287, U15).
  Raised by the user-bank LDM and STM. Safe. -/
  | userBankWriteback
  deriving DecidableEq, Repr

/-- What an instruction, or a step, ends in. -/
abbrev Result := Host.Outcome State Fault Refusal

/-- The CPSR after reset: 0x000000D3 (R46, R561). -/
def Cpsr.reset : Cpsr where
  n := false
  z := false
  c := false
  v := false
  i := true
  f := true
  t := false
  mode := .svc

/-- A saved status register after reset: zero (R46). -/
def Spsr.reset : Spsr where
  n := false
  z := false
  c := false
  v := false
  i := false
  f := false
  t := false
  m := 0#5

/-- A platform with no peripheral, no Hardware Register and no halt write (log 21: DESIGN CHOICE). -/
def Platform.none : Platform where
  bus := 0
  writeMasks := []
  haltWrites := []
  periphs := []

/-- The core's state after reset with a given memory image and platform (R46, R560, R561). -/
def State.resetWith (image : Memory) (plat : Platform) : State where
  regs := Vector.replicate 30 0#32
  pc := Config.vectorBase
  cpsr := .reset
  spsrFiq := .reset
  spsrIrq := .reset
  spsrSvc := .reset
  spsrAbt := .reset
  spsrUnd := .reset
  halted := false
  mem := image
  lastAccess := Option.none
  plat := plat
  stepCost := 0
  budget := 0
  wrotePc := false
  draws := 0

/-- The machine right after reset, before any image is loaded (R46; log 20, log 21). -/
def State.reset : State := State.resetWith [] Platform.none

end Sys2Proof.Machine
end

