-- ==== Sys2Proof/Machine/Ops.lean ====
section
/-! DEFINITION. The named operations over memory, registers, pc and the status registers, taking an exception and
returning from one. Every instruction's meaning is written over these. -/

namespace Sys2Proof.Machine

/-! ## Memory (R60 to R66, R74) -/

/-- What an address nothing has written reads as (log 1: DESIGN CHOICE; the interface "must always return a value", R65). -/
def Memory.unlisted : Byte := 0#8

/-- One byte of plain storage. -/
def Memory.read : Memory → Nat → Byte
  | [], _ => Memory.unlisted
  | (k, b) :: m, a => if k = a then b else Memory.read m a

/-- Storing one byte; the list stays canonical. -/
def Memory.write : Memory → Nat → Byte → Memory
  | [], a, b => if b = Memory.unlisted then [] else [(a, b)]
  | (k, x) :: m, a, b =>
    if k = a then (if b = Memory.unlisted then m else (a, b) :: m)
    else if a < k then (if b = Memory.unlisted then (k, x) :: m else (a, b) :: (k, x) :: m)
    else (k, x) :: Memory.write m a b

/-- The canonical form: addresses strictly rising inside the 2^32-byte space, no byte equal to the unlisted one. -/
def Memory.wf : Memory → Bool
  | [] => true
  | (k, b) :: m => b != Memory.unlisted && k < 2 ^ 32 && m.all (fun c => k < c.1) && Memory.wf m

/-- The byte addresses an access touches, lowest first; address arithmetic is modulo 2^32 (R61). -/
def byteAddrs (a : Word) : Width → List Word
  | .byte => [a]
  | .half => [a, a + 1#32]
  | .word => [a, a + 1#32, a + 2#32, a + 3#32]

/-- The bytes of a value, little-endian (R66). -/
def valueBytes (v : Word) : Width → List Byte
  | .byte => [v.extractLsb' 0 8]
  | .half => [v.extractLsb' 0 8, v.extractLsb' 8 8]
  | .word => [v.extractLsb' 0 8, v.extractLsb' 8 8, v.extractLsb' 16 8, v.extractLsb' 24 8]

/-- The value at an address, little-endian, zero-extended to 32 bits (R62, R66). -/
def Memory.load (m : Memory) (a : Word) : Width → Word
  | .byte => (m.read a.toNat).setWidth 32
  | .half => (m.read (a + 1#32).toNat ++ m.read a.toNat).setWidth 32
  | .word => m.read (a + 3#32).toNat ++ m.read (a + 2#32).toNat ++ m.read (a + 1#32).toNat ++ m.read a.toNat

/-- The bits of the byte at an address that software may modify: all, unless a Hardware Register says otherwise (R74). -/
def maskAt : List Host.Cell → Nat → Byte
  | [], _ => BitVec.allOnes 8
  | (k, mask) :: rest, a => if k = a then mask else maskAt rest a

/-- `value = (value & ~mask) | (new_value & mask)` (R74). -/
def maskedByte (mask old new : Byte) : Byte := (old &&& ~~~mask) ||| (new &&& mask)

/-- The core's store of one byte (R63, R74). -/
def Memory.storeByte (masks : List Host.Cell) (m : Memory) (a : Word) (b : Byte) : Memory :=
  m.write a.toNat (maskedByte (maskAt masks a.toNat) (m.read a.toNat) b)

/-- The core's store of several bytes, in order. -/
def Memory.storeBytes (masks : List Host.Cell) (m : Memory) : List (Word × Byte) → Memory
  | [] => m
  | (a, b) :: rest => Memory.storeBytes masks (m.storeByte masks a b) rest

/-! ## The collaborators' answers to one access (R12, R43, R64, R74, R83) -/

/-- Some byte of the access is the one the trigger watches for. -/
def Trigger.hits (t : Trigger) (cells : List (Word × Byte)) : Bool :=
  cells.any fun c => c.1 == t.addr && c.2 &&& t.mask == t.value

/-- The window holds the address. -/
def Window.holds (w : Window) (a : Word) : Bool := w.first.ule a && a.ule w.last

/-- The address is a register of one of these windows. -/
def ownedBy (ws : List Window) (a : Word) : Bool := ws.any fun w => w.holds a

/-- The access touches one of these windows. -/
def watchedBy (ws : List Window) (a : Word) (w : Width) : Bool := (byteAddrs a w).any (ownedBy ws)

/-- The listed bytes that `own` holds: inside an access a device reads its own registers and no other byte (R77). -/
def Memory.within (own : Word → Bool) (m : Memory) : Memory := m.filter fun c => own (BitVec.ofNat 32 c.1)

/-- The bytes a device puts in memory, in order, where `own` lets it. -/
def Memory.pokes (own : Word → Bool) : List (Word × Byte) → Memory → Memory
  | [], m => m
  | (a, b) :: rest, m => Memory.pokes own rest (if own a then m.write a.toNat b else m)

/-- A device's reply becomes its state: inside an access a device changes its own registers and no other byte (R77). -/
def Peripheral.take (own : Word → Bool) (y : Reply) (p : Peripheral) (m : Memory) : Peripheral × Memory :=
  ({ p with memo := y.memo, level := y.level, events := y.events }, m.pokes own y.pokes)

/-- A peripheral's answer to an access that touches its registers: the first known one that a byte of its registers triggers, else the
device's own. It hears no other access, and sees and changes its own registers only (R74, R77). The last part is the answer
`halt_request` (log 3). -/
def Peripheral.respond (r : Request) (cells : List (Word × Byte)) (p : Peripheral) (m : Memory) :
    Peripheral × Memory × Bool :=
  let own := ownedBy p.windows
  if watchedBy p.windows r.addr r.width then
    match p.responses.find? fun x => decide (x.kind = r.kind) && x.on.hits (cells.filter fun c => own c.1) with
    | some x => ({ p with level := x.level, events := x.events }, m, false)
    | none =>
      let y := Config.device p.memo p.elapsed (m.within own) (some r)
      let x := p.take own y m
      (x.1, x.2, y.halt)
  else (p, m, false)

/-- All peripherals answer an access, in list order (R12: only inside the access calls and `Tick`). -/
def respondAll (r : Request) (cells : List (Word × Byte)) : List Peripheral → Memory → List Peripheral × Memory × Bool
  | [], m => ([], m, false)
  | p :: rest, m =>
    let x := p.respond r cells m
    let y := respondAll r cells rest x.2.1
    (x.1 :: y.1, y.2.1, x.2.2 || y.2.2)

/-- The one-bit answer `halt_request` after a write, from the platform's known halt writes (R83). -/
def Platform.haltRequest (q : Platform) (cells : List (Word × Byte)) : Bool :=
  q.haltWrites.any fun t => t.hits cells

/-- The registers of all devices. -/
def Platform.windows (q : Platform) : List Window := q.periphs.flatMap fun p => p.windows

/-- An access is sequential when it follows the previous one at an adjacent address (R64; log 7: DEDUCED). -/
def sequential (prev : Option Access) (a : Word) : Bool :=
  match prev with
  | some p => a == p.addr + BitVec.ofNat 32 p.width.bytes
  | none => false

/-- `access_cycles`: at least 1 (R64; log 6). -/
def accessCycles (s : State) (r : Request) : Nat :=
  1 + Config.accessWait s.plat.bus r (sequential s.lastAccess r.addr)

/-- What the interface and the devices do at an access and remember of it, and its cost (R12, R62 to R64). -/
def State.noteAccess (r : Request) (cells : List (Word × Byte)) (s : State) : State :=
  let x := respondAll r cells s.plat.periphs s.mem
  { s with
    stepCost := s.stepCost + accessCycles s r
    lastAccess := some { addr := r.addr, width := r.width }
    plat := { s.plat with bus := Config.busAfter s.plat.bus r, periphs := x.1 }
    mem := x.2.1 }

/-- The bytes of an access and their addresses. -/
def cellsOf (a : Word) (w : Width) (v : Word) : List (Word × Byte) := (byteAddrs a w).zip (valueBytes v w)

/-- `ReadMemory(addr, n)` (R62). -/
def readRequest (a : Word) (w : Width) : Request := ⟨.read, a, w, 0#32⟩

/-- `WriteMemory(addr, n, v)`, the bits of `v` above the width dropped (R63). -/
def writeRequest (a : Word) (w : Width) (v : Word) : Request :=
  ⟨.write, a, w, match w with
    | .byte => (v.extractLsb' 0 8).setWidth 32
    | .half => (v.extractLsb' 0 16).setWidth 32
    | .word => v⟩

/-- `MemRead(addr, n)`: the devices answer, then the value is what stands there; and the state after the call (R62, R74). It
cannot fail (R65). -/
def memRead (a : Word) (w : Width) (s : State) : Word × State :=
  let t := s.noteAccess (readRequest a w) (cellsOf a w (s.mem.load a w))
  (t.mem.load a w, t)

/-- The state with a value stored: plain memory takes the bytes, a Hardware Register through its mask (R63, R66, R74). -/
def State.stored (a : Word) (w : Width) (v : Word) (s : State) : State :=
  { s with mem := s.mem.storeBytes s.plat.writeMasks (cellsOf a w v) }

/-- The answer `halt_request` to a write whose bytes are stored: the platform's halt writes, or a device's own answer (R83; log 5). -/
def State.haltAnswer (a : Word) (w : Width) (v : Word) (s : State) : Bool :=
  s.plat.haltRequest (cellsOf a w v) || (respondAll (writeRequest a w v) (cellsOf a w v) s.plat.periphs s.mem).2.2

/-- The core examines `halt_request`: a request in User mode is ignored (R83, R454). -/
def State.examineHalt (asked : Bool) (s : State) : State :=
  if asked && (!Config.haltWriteNeedsPrivilege || s.cpsr.mode != .usr) then { s with halted := true } else s

/-- `MemWrite(addr, n, v)` (R63): the bytes, the cost, the devices' answers, then the halt request (R83; log 31). -/
def memWrite (a : Word) (w : Width) (v : Word) (s : State) : State :=
  let t := s.stored a w v
  (t.noteAccess (writeRequest a w v) (cellsOf a w v)).examineHalt (t.haltAnswer a w v)

/-! ## Registers and banks (R20 to R28) -/

/-- The bank map: the physical register slot `i` names in mode `m` (R23). Slot 15 is `pc` and never comes here. -/
def physReg (m : Mode) (i : Reg) : PhysReg :=
  match i with
  | 0#4 => .r0
  | 1#4 => .r1
  | 2#4 => .r2
  | 3#4 => .r3
  | 4#4 => .r4
  | 5#4 => .r5
  | 6#4 => .r6
  | 7#4 => .r7
  | 8#4 => if m = .fiq then .r8fiq else .r8usr
  | 9#4 => if m = .fiq then .r9fiq else .r9usr
  | 10#4 => if m = .fiq then .r10fiq else .r10usr
  | 11#4 => if m = .fiq then .r11fiq else .r11usr
  | 12#4 => if m = .fiq then .r12fiq else .r12usr
  | 13#4 =>
    match m with
    | .usr => .r13usr
    | .sys => .r13usr
    | .fiq => .r13fiq
    | .irq => .r13irq
    | .svc => .r13svc
    | .abt => .r13abt
    | .und => .r13und
  | _ =>
    match m with
    | .usr => .r14usr
    | .sys => .r14usr
    | .fiq => .r14fiq
    | .irq => .r14irq
    | .svc => .r14svc
    | .abt => .r14abt
    | .und => .r14und

/-- The value of a physical register. -/
def State.phys (s : State) (p : PhysReg) : Word := s.regs.get p.index

/-- Writing a physical register: no other one changes (R24). -/
def State.setPhys (s : State) (p : PhysReg) (v : Word) : State :=
  { s with regs := s.regs.set p.index.val v p.index.isLt }

/-- `AlignPC` (R158). -/
def alignPc (thumb : Bool) (v : Word) : Word :=
  if thumb then v &&& ~~~1#32 else v &&& ~~~3#32

/-- `pc <- v` (R158), with `CPSR.T` as it is now; the step charges the refill (R157). -/
def writePc (v : Word) (s : State) : State :=
  { s with pc := alignPc s.cpsr.t v, wrotePc := true }

/-- Reading slot `i` as an operand (R8, R27). While an instruction runs `pc` is `cur + w`, so `ahead` is what separates
that from the value register 15 reads as. -/
def readReg (ahead : Word) (i : Reg) (s : State) : Word :=
  if i = 15#4 then s.pc + ahead else s.phys (physReg s.cpsr.mode i)

/-- `x[i]` in ARM state: register 15 reads `cur + 8` (R27). -/
def readArm (i : Reg) (s : State) : Word := readReg 4#32 i s

/-- `x[i]` where ARM state reads register 15 as `cur + 12` (R27: stores, register-specified shifts). -/
def readArm12 (i : Reg) (s : State) : Word := readReg 8#32 i s

/-- `x[i]` in THUMB state: register 15 reads `cur + 4` (R27, R326). -/
def readThumb (i : Reg) (s : State) : Word := readReg 2#32 i s

/-- `x[i] <- v`: slot 15 is a write of pc (R8, R158). -/
def writeReg (i : Reg) (v : Word) (s : State) : State :=
  if i = 15#4 then writePc v s else s.setPhys (physReg s.cpsr.mode i) v

/-- `x_usr[i]`, whatever the mode (R8, R23). -/
def readUser (i : Reg) (s : State) : Word := s.phys (physReg .usr i)

/-- Writing `x_usr[i]`, whatever the mode (R25, R285). -/
def writeUser (i : Reg) (v : Word) (s : State) : State := s.setPhys (physReg .usr i) v

/-! ## Status registers (R29 to R37) -/

/-- The mode a number names, if it is one of the seven (R31). -/
def modeOfBits (b : BitVec 5) : Option Mode :=
  match b with
  | 0b10000#5 => some .usr
  | 0b10001#5 => some .fiq
  | 0b10010#5 => some .irq
  | 0b10011#5 => some .svc
  | 0b10111#5 => some .abt
  | 0b11011#5 => some .und
  | 0b11111#5 => some .sys
  | _ => none

/-- The 32 bits of a saved status register: reserved bits are zero (R30, R35). -/
def Spsr.toWord (p : Spsr) : Word :=
  BitVec.ofBool p.n ++ BitVec.ofBool p.z ++ BitVec.ofBool p.c ++ BitVec.ofBool p.v ++ 0#20 ++ BitVec.ofBool p.i ++
    BitVec.ofBool p.f ++ BitVec.ofBool p.t ++ p.m

/-- A status register written with 32 bits: the reserved ones are ignored (R30, R35). -/
def spsrOfWord (x : Word) : Spsr where
  n := x.getLsbD 31
  z := x.getLsbD 30
  c := x.getLsbD 29
  v := x.getLsbD 28
  i := x.getLsbD 7
  f := x.getLsbD 6
  t := x.getLsbD 5
  m := x.extractLsb' 0 5

/-- The CPSR as an exception entry saves it (R36, R505). -/
def Cpsr.save (p : Cpsr) : Spsr where
  n := p.n
  z := p.z
  c := p.c
  v := p.v
  i := p.i
  f := p.f
  t := p.t
  m := p.mode.bits

/-- The 32 bits of the CPSR (R30). -/
def Cpsr.toWord (p : Cpsr) : Word := p.save.toWord

/-- The CPSR a saved status register restores; none if its M is no mode (U1). -/
def Spsr.restore (p : Spsr) : Option Cpsr :=
  (modeOfBits p.m).map fun mode =>
    { n := p.n, z := p.z, c := p.c, v := p.v, i := p.i, f := p.f, t := p.t, mode := mode }

/-- The exception mode whose SPSR the mode sees: User and System have none (R23, R36). -/
def excModeOf : Mode → Option ExcMode
  | .usr => none
  | .sys => none
  | .fiq => some .fiq
  | .irq => some .irq
  | .svc => some .svc
  | .abt => some .abt
  | .und => some .und

/-- `SPSR_<mode>`. -/
def State.spsr (s : State) : ExcMode → Spsr
  | .fiq => s.spsrFiq
  | .irq => s.spsrIrq
  | .svc => s.spsrSvc
  | .abt => s.spsrAbt
  | .und => s.spsrUnd

/-- Writing `SPSR_<mode>`. -/
def State.setSpsr (s : State) (b : ExcMode) (p : Spsr) : State :=
  match b with
  | .fiq => { s with spsrFiq := p }
  | .irq => { s with spsrIrq := p }
  | .svc => { s with spsrSvc := p }
  | .abt => { s with spsrAbt := p }
  | .und => { s with spsrUnd := p }

/-- Writing the CPSR. The bank map follows its mode from now on (R24, R159). -/
def State.setCpsr (s : State) (p : Cpsr) : State := { s with cpsr := p }

/-! ## Cost (R130, R157, R248, R575) -/

/-- `cost += k` (R9). -/
def State.addCost (s : State) (k : Nat) : State := { s with stepCost := s.stepCost + k }

/-- The default `ICycles` table; `mc` is the multiplier count (R575). Among the open parameters `ICycles` stands with this default
(R574, D19); the model takes the default as its value: DESIGN CHOICE (log 33). -/
def icycles (c : CostCategory) (mc : Nat) : Nat :=
  match c with
  | .alu => 0
  | .aluRshift => 1
  | .mul => mc
  | .mla => mc + 1
  | .mull => mc + 1
  | .mlal => mc + 2
  | .psr => 0
  | .load => 1
  | .store => 0
  | .loadM => 1
  | .storeM => 0
  | .swap => 1
  | .branch => 0
  | .blPrefix => 0
  | .trap => 0

/-- The multiplier array cycles of MUL, MLA, SMULL, SMLAL and THUMB MUL (R248, R358). -/
def mcSigned (v : Word) : Nat :=
  if v.extractLsb' 8 24 = 0#24 ∨ v.extractLsb' 8 24 = BitVec.allOnes 24 then 1
  else if v.extractLsb' 16 16 = 0#16 ∨ v.extractLsb' 16 16 = BitVec.allOnes 16 then 2
  else if v.extractLsb' 24 8 = 0#8 ∨ v.extractLsb' 24 8 = BitVec.allOnes 8 then 3
  else 4

/-- The multiplier array cycles of UMULL and UMLAL (R248). -/
def mcUnsigned (v : Word) : Nat :=
  if v.extractLsb' 8 24 = 0#24 then 1
  else if v.extractLsb' 16 16 = 0#16 then 2
  else if v.extractLsb' 24 8 = 0#8 then 3
  else 4

/-- The internal cycles of an instruction of a category (R157, R575). -/
def State.charge (s : State) (c : CostCategory) (mc : Nat := 0) : State := s.addCost (icycles c mc)

/-! ## Exceptions (R500 to R518) -/

/-- The mode a class enters (R501). -/
def excMode : ExcClass → ExcMode
  | .reset => .svc
  | .undefined => .und
  | .swi => .svc
  | .prefetchAbort => .abt
  | .dataAbort => .abt
  | .irq => .irq
  | .fiq => .fiq

/-- The class's number, its vector offset divided by 4 (R502). -/
def excNumber : ExcClass → Nat
  | .reset => 0
  | .undefined => 1
  | .swi => 2
  | .prefetchAbort => 3
  | .dataAbort => 4
  | .irq => 6
  | .fiq => 7

/-- The class's vector address (R501). -/
def vectorOf (cls : ExcClass) : Word := Config.vectorBase + BitVec.ofNat 32 (4 * excNumber cls)

/-- `LrAdjust(class)` (R505, R506). The abort classes, which nothing raises (R515), take their link value whole as `ret`. -/
def lrAdjust : ExcClass → Word
  | .irq => 4#32
  | .fiq => 4#32
  | _ => 0#32

/-- Whether entry sets `CPSR.F` (R501, R505). -/
def setsF : ExcClass → Bool
  | .reset => true
  | .fiq => true
  | _ => false

/-- The CPSR an exception entry leaves (R501, R505). -/
def Cpsr.enter (p : Cpsr) (cls : ExcClass) : Cpsr :=
  { p with mode := (excMode cls).mode, t := false, i := true, f := p.f || setsF cls }

/-- `EnterException(class, ret)` (R505): the CPSR goes to the entered mode's SPSR, the return address to its link register,
then the mode, T, I, F and pc take the class's values. The flags and every other register stay. -/
def enterException (cls : ExcClass) (ret : Word) (s : State) : State :=
  let b := excMode cls
  let s := s.setSpsr b s.cpsr.save
  let s := s.setPhys (physReg b.mode 14#4) (ret + lrAdjust cls)
  let s := s.setCpsr (s.cpsr.enter cls)
  { s with
    pc := vectorOf cls
    stepCost := s.stepCost + Config.excEntryCost cls + Config.refillCost (vectorOf cls) false }

/-- Return from an exception to `target` (R203, R286, R517): the CPSR from the current mode's SPSR, then pc aligned for the
restored T. In User and System mode the CPSR stays and pc is still written (U3). An illegal mode number faults (U1). -/
def exceptionReturn (target : Word) (s : State) : Result :=
  match excModeOf s.cpsr.mode with
  | none => .next (writePc target s)
  | some b =>
    match (s.spsr b).restore with
    | none => .fault .illegalMode
    | some p => .next (writePc target (s.setCpsr p))

/-- The Undefined exception of a word with no row, of UND and of the coprocessor rows: nothing else happens (R311, R438). -/
def takeUndefined (s : State) : Result := .next (enterException .undefined s.pc (s.charge .trap))

/-- The software interrupt: nothing else happens (R310, R435). -/
def takeSwi (s : State) : Result := .next (enterException .swi s.pc (s.charge .trap))

/-! ## Conditions and results -/

/-- `CondPassed(c)` (R155). -/
def condPassed (c : Cond) (p : Cpsr) : Bool :=
  match c with
  | .eq => p.z
  | .ne => !p.z
  | .cs => p.c
  | .cc => !p.c
  | .mi => p.n
  | .pl => !p.n
  | .vs => p.v
  | .vc => !p.v
  | .hi => p.c && !p.z
  | .ls => !p.c || p.z
  | .ge => p.n == p.v
  | .lt => p.n != p.v
  | .gt => !p.z && p.n == p.v
  | .le => p.z || p.n != p.v
  | .al => true
  | .nv => false

/-- An ARM instruction whose condition fails does nothing (R154). -/
def guarded (c : Cond) (body : State → Result) (s : State) : Result :=
  if condPassed c s.cpsr then body s else .next s

/-- What happens after an instruction that gave a next state. -/
def andThen (r : Result) (k : State → State) : Result :=
  match r with
  | .next s => .next (k s)
  | .fault e => .fault e
  | .refused e => .refused e

end Sys2Proof.Machine
end

