-- ==== Sys2Proof/Machine/Flags.lean ====
section
/-! DEFINITION. The adder and every flag computation: results carry the C and V they would leave (R166, R167), and one
function per data-processing operation says what it computes. -/

namespace Sys2Proof.Machine

/-- A result with the C and V flags that go with it. -/
structure AluOut where
  r : Word
  c : Bool
  v : Bool
  deriving DecidableEq, Repr

/-- `AddWithCarry(a, b, c)` (R166): the sum as an unbounded integer, then narrowed. -/
def addWithCarry (a b : Word) (c : Bool) : AluOut :=
  let u := a.toNat + b.toNat + c.toNat
  let r := BitVec.ofNat 32 u
  { r := r, c := decide (2 ^ 32 ≤ u), v := a.msb == b.msb && r.msb != a.msb }

/-- A logical result: C is the shifter's carry, V stays (R167). -/
def logical (r : Word) (shiftCarry : Bool) (p : Cpsr) : AluOut := { r := r, c := shiftCarry, v := p.v }

/-- A result that leaves C and V as they are (R325: "N, Z only"). -/
def keepCV (r : Word) (p : Cpsr) : AluOut := { r := r, c := p.c, v := p.v }

/-- The flags an operation's result leaves: N and Z from the result, C and V as it says (R167). -/
def Cpsr.withResult (p : Cpsr) (o : AluOut) : Cpsr :=
  { p with n := o.r.msb, z := o.r == 0#32, c := o.c, v := o.v }

/-- Updating the flags from a result (R167, R201). -/
def setFlags (o : AluOut) (s : State) : State := s.setCpsr (s.cpsr.withResult o)

/-- The flags a 64-bit result leaves: N is bit 63, Z tests all 64 bits (R167, R247). -/
def Cpsr.withResult64 (p : Cpsr) (r : BitVec 64) (c v : Bool) : Cpsr :=
  { p with n := r.msb, z := r == 0#64, c := c, v := v }

/-! Each operation: first operand, second operand, shifter carry, the flags at the start (R210 to R225). -/

/-- R210. -/
def aluAnd (a b : Word) (sc : Bool) (p : Cpsr) : AluOut := logical (a &&& b) sc p

/-- R211. -/
def aluEor (a b : Word) (sc : Bool) (p : Cpsr) : AluOut := logical (a ^^^ b) sc p

/-- R212. -/
def aluSub (a b : Word) (_sc : Bool) (_p : Cpsr) : AluOut := addWithCarry a (~~~b) true

/-- R213. -/
def aluRsb (a b : Word) (_sc : Bool) (_p : Cpsr) : AluOut := addWithCarry b (~~~a) true

/-- R214. -/
def aluAdd (a b : Word) (_sc : Bool) (_p : Cpsr) : AluOut := addWithCarry a b false

/-- R215: the carry added is the old C, not the shifter's. -/
def aluAdc (a b : Word) (_sc : Bool) (p : Cpsr) : AluOut := addWithCarry a b p.c

/-- R216. -/
def aluSbc (a b : Word) (_sc : Bool) (p : Cpsr) : AluOut := addWithCarry a (~~~b) p.c

/-- R217. -/
def aluRsc (a b : Word) (_sc : Bool) (p : Cpsr) : AluOut := addWithCarry b (~~~a) p.c

/-- R218. -/
def aluTst (a b : Word) (sc : Bool) (p : Cpsr) : AluOut := logical (a &&& b) sc p

/-- R219. -/
def aluTeq (a b : Word) (sc : Bool) (p : Cpsr) : AluOut := logical (a ^^^ b) sc p

/-- R220. -/
def aluCmp (a b : Word) (_sc : Bool) (_p : Cpsr) : AluOut := addWithCarry a (~~~b) true

/-- R221. -/
def aluCmn (a b : Word) (_sc : Bool) (_p : Cpsr) : AluOut := addWithCarry a b false

/-- R222. -/
def aluOrr (a b : Word) (sc : Bool) (p : Cpsr) : AluOut := logical (a ||| b) sc p

/-- R223: the first operand is not used. -/
def aluMov (_a b : Word) (sc : Bool) (p : Cpsr) : AluOut := logical b sc p

/-- R224. -/
def aluBic (a b : Word) (sc : Bool) (p : Cpsr) : AluOut := logical (a &&& ~~~b) sc p

/-- R225: the first operand is not used. -/
def aluMvn (_a b : Word) (sc : Bool) (p : Cpsr) : AluOut := logical (~~~b) sc p

end Sys2Proof.Machine
end

