-- ==== Sys2Proof/Machine/Operands.lean ====
section
/-! DEFINITION. Operand forms: the barrel shifter (R164, R165), the second operand of data processing (R200, R202), the
addresses of single and block transfers (R260, R271, R280, R281), the immediates of R126 and R127. -/

namespace Sys2Proof.Machine

/-- `ROR(v, n)` for 0 to 31 (R7). -/
def ror (v : Word) (n : Nat) : Word := (v >>> n) ||| (v <<< (32 - n))

/-- The immediate operand of A.DPI and its carry (R126, R164). -/
def immOperand (rotate : BitVec 4) (imm8 : BitVec 8) (cin : Bool) : Word × Bool :=
  let v := ror (imm8.setWidth 32) (2 * rotate.toNat)
  (v, if rotate = 0#4 then cin else v.msb)

/-- `ShiftImm(type, n, m, cin)` (R164). -/
def shiftImm (type : ShiftType) (n : BitVec 5) (m : Word) (cin : Bool) : Word × Bool :=
  let k := n.toNat
  match type with
  | .lsl => if k = 0 then (m, cin) else (m <<< k, m.getLsbD (32 - k))
  | .lsr => if k = 0 then (0#32, m.msb) else (m >>> k, m.getLsbD (k - 1))
  | .asr => if k = 0 then (m.sshiftRight 32, m.msb) else (m.sshiftRight k, m.getLsbD (k - 1))
  | .ror => if k = 0 then (BitVec.ofBool cin ++ m.extractLsb' 1 31, m.getLsbD 0) else (ror m k, m.getLsbD (k - 1))

/-- `ShiftReg(type, s, m, cin)`, the amount a byte (R165). -/
def shiftReg (type : ShiftType) (amount : Byte) (m : Word) (cin : Bool) : Word × Bool :=
  let k := amount.toNat
  if k = 0 then (m, cin)
  else
    match type with
    | .lsl => if k < 32 then (m <<< k, m.getLsbD (32 - k)) else (0#32, k = 32 && m.getLsbD 0)
    | .lsr => if k < 32 then (m >>> k, m.getLsbD (k - 1)) else (0#32, k = 32 && m.msb)
    | .asr => if k < 32 then (m.sshiftRight k, m.getLsbD (k - 1)) else (m.sshiftRight 32, m.msb)
    | .ror => if k % 32 = 0 then (m, m.msb) else (ror m (k % 32), m.getLsbD (k % 32 - 1))

/-- The low byte of a register, the amount of a register-specified shift (R165). -/
def lowByte (v : Word) : Byte := v.extractLsb' 0 8

/-- The offset of A.SDTR: the carry-out is dropped, RRX uses the C flag (R260). -/
def shiftedOffset (n : BitVec 5) (type : ShiftType) (rm : Reg) (s : State) : Word :=
  (shiftImm type n (readArm rm s) s.cpsr.c).1

/-- A single transfer's effective address, and the base it writes back, if it does (R260, R271). -/
structure Addressing where
  ea : Word
  offAddr : Word
  writeback : Bool
  deriving DecidableEq, Repr

/-- `off_addr` (R260). -/
def offsetAddr (u : Bool) (base offset : Word) : Word := if u then base + offset else base - offset

/-- P = 1 (R260). -/
def preIndexed (u w : Bool) (base offset : Word) : Addressing :=
  { ea := offsetAddr u base offset, offAddr := offsetAddr u base offset, writeback := w }

/-- P = 0: always written back (R260). -/
def postIndexed (u : Bool) (base offset : Word) : Addressing :=
  { ea := base, offAddr := offsetAddr u base offset, writeback := true }

/-- Addressing of the halfword and signed transfers: with P = 0, W has no effect (R271). -/
def hsAddressing (p u w : Bool) (base offset : Word) : Addressing :=
  if p then preIndexed u w base offset else postIndexed u base offset

/-- A.SDTI with P = 1 (R115, R260). -/
def addrSdtImmPre (f : SdtImmPre) (s : State) : Addressing :=
  preIndexed f.u f.w (readArm f.rn s) (f.imm12.setWidth 32)

/-- A.SDTI with P = 0 (R115, R260). -/
def addrSdtImmPost (f : SdtImmPost) (s : State) : Addressing :=
  postIndexed f.u (readArm f.rn s) (f.imm12.setWidth 32)

/-- A.SDTR with P = 1 (R116, R260). -/
def addrSdtRegPre (f : SdtRegPre) (s : State) : Addressing :=
  preIndexed f.u f.w (readArm f.rn s) (shiftedOffset f.shiftImm f.type f.rm s)

/-- A.SDTR with P = 0 (R116, R260). -/
def addrSdtRegPost (f : SdtRegPost) (s : State) : Addressing :=
  postIndexed f.u (readArm f.rn s) (shiftedOffset f.shiftImm f.type f.rm s)

/-- A.HSR (R113, R271). -/
def addrHsReg (f : HsReg) (s : State) : Addressing :=
  hsAddressing f.p f.u f.w (readArm f.rn s) (readArm f.rm s)

/-- A.HSI (R114, R271). -/
def addrHsImm (f : HsImm) (s : State) : Addressing :=
  hsAddressing f.p f.u f.w (readArm f.rn s) ((f.immH ++ f.immL).setWidth 32)

/-- `ea & ~3`, the address of a word access (R68, R70, R71). -/
def wordAligned (a : Word) : Word := a &&& ~~~3#32

/-- `ea & ~1`, the address of a halfword access (R69, R70). -/
def halfAligned (a : Word) : Word := a &&& ~~~1#32

/-- The slots of a register list, ascending (R281). -/
def slotsOf (list : BitVec 16) : List Reg :=
  ((List.range 16).filter fun k => list.getLsbD k).map (BitVec.ofNat 4)

/-- `4n` for a list of `n` slots. -/
def listBytes (slots : List Reg) : Word := BitVec.ofNat 32 (4 * slots.length)

/-- `start` of R280: the lowest address transferred. -/
def blockStart (p u : Bool) (base : Word) (slots : List Reg) : Word :=
  if u then (if p then base + 4#32 else base)
  else (if p then base - listBytes slots else base - listBytes slots + 4#32)

/-- `wb` of R280: the value written back. -/
def blockWb (u : Bool) (base : Word) (slots : List Reg) : Word :=
  if u then base + listBytes slots else base - listBytes slots

/-- The byte offset of an ARM branch: `sext_24(offset24) << 2` (R126). -/
def armBranchOffset (offset24 : BitVec 24) : Word := offset24.signExtend 32 <<< 2

/-- The byte offset of a THUMB conditional branch (R127). -/
def condBranchOffset (soffset8 : BitVec 8) : Word := soffset8.signExtend 32 <<< 1

/-- The byte offset of the THUMB branch of format 18 (R127). -/
def branchOffset (offset11 : BitVec 11) : Word := offset11.signExtend 32 <<< 1

/-- What the first half of BL adds (R127). -/
def blHighOffset (offset11 : BitVec 11) : Word := offset11.signExtend 32 <<< 12

/-- What the second half of BL adds (R127). -/
def blLowOffset (offset11 : BitVec 11) : Word := offset11.setWidth 32 <<< 1

/-- A word-scaled immediate (R127). -/
def scaled4 (x : BitVec n) : Word := x.setWidth 32 <<< 2

/-- A halfword-scaled immediate (R127). -/
def scaled2 (x : BitVec n) : Word := x.setWidth 32 <<< 1

/-- The base of the pc-relative THUMB forms: `(cur + 4) & ~2` (R27, R326). -/
def thumbPcBase (s : State) : Word := readThumb 15#4 s &&& ~~~2#32

end Sys2Proof.Machine
end

