-- ==== Sys2Proof/Machine/Transfer.lean ====
section
/-! DEFINITION. What every load and store is made of: one access with the alignment rules of R68 to R71, the order of a
single transfer (R265), the runs of a block transfer (R281). -/

namespace Sys2Proof.Machine

/-- What a load makes of the bytes it reads. -/
inductive LoadKind where
  | word | byte | half | signedByte | signedHalf
  deriving DecidableEq, Repr

/-- A loaded word: the aligned word, rotated so that the addressed byte is lowest (R68). -/
def loadWord (ea : Word) (s : State) : Word × State :=
  let r := memRead (wordAligned ea) .word s
  (ror r.1 (8 * (ea.extractLsb' 0 2).toNat), r.2)

/-- A loaded byte, zero-extended (R263). -/
def loadByte (ea : Word) (s : State) : Word × State := memRead ea .byte s

/-- A loaded halfword: at an odd address the aligned halfword rotated right by 8 (R69, U4). -/
def loadHalf (ea : Word) (s : State) : Word × State :=
  let r := memRead (halfAligned ea) .half s
  (ror r.1 (8 * (ea.extractLsb' 0 1).toNat), r.2)

/-- A loaded byte, sign-extended (R274). -/
def loadSignedByte (ea : Word) (s : State) : Word × State :=
  let r := memRead ea .byte s
  ((r.1.extractLsb' 0 8).signExtend 32, r.2)

/-- A loaded halfword, sign-extended; at an odd address the byte there, sign-extended (R69, U4). -/
def loadSignedHalf (ea : Word) (s : State) : Word × State :=
  if ea.getLsbD 0 then loadSignedByte ea s
  else
    let r := memRead ea .half s
    ((r.1.extractLsb' 0 16).signExtend 32, r.2)

/-- One load: the value, and the state after its access. -/
def loadAt (k : LoadKind) (ea : Word) (s : State) : Word × State :=
  match k with
  | .word => loadWord ea s
  | .byte => loadByte ea s
  | .half => loadHalf ea s
  | .signedByte => loadSignedByte ea s
  | .signedHalf => loadSignedHalf ea s

/-- The address a store of a width is made at: low bits dropped (R70). -/
def storeAddr (w : Width) (ea : Word) : Word :=
  match w with
  | .word => wordAligned ea
  | .half => halfAligned ea
  | .byte => ea

/-- One store (R70). -/
def storeAt (w : Width) (ea v : Word) (s : State) : State := memWrite (storeAddr w ea) w v s

/-- Write-back of the base, if the form has it (R260). -/
def Addressing.writeBack (m : Addressing) (rn : Reg) (s : State) : State :=
  if m.writeback then writeReg rn m.offAddr s else s

/-- A single load: the access, the write-back, then the register (R265). -/
def singleLoad (k : LoadKind) (m : Addressing) (rn rd : Reg) (s : State) : State :=
  let r := loadAt k m.ea s
  (writeReg rd r.1 (m.writeBack rn r.2)).charge .load

/-- A single store of the value read before it: the access, then the write-back (R265). -/
def singleStore (w : Width) (m : Addressing) (rn : Reg) (v : Word) (s : State) : State :=
  (m.writeBack rn (storeAt w m.ea v s)).charge .store

/-- Word loads of a block transfer, ascending: each slot with its value, and the state after the accesses (R71, R281). -/
def loadSlots : List Reg → Word → State → List (Reg × Word) × State
  | [], _, s => ([], s)
  | r :: rest, a, s =>
    let x := memRead (wordAligned a) .word s
    let more := loadSlots rest (a + 4#32) x.2
    ((r, x.1) :: more.1, more.2)

/-- Word stores of a block transfer, ascending; `value` is asked for each slot when its turn comes (R71, R281). -/
def storeSlots (value : Reg → State → Word) : List Reg → Word → State → State
  | [], _, s => s
  | r :: rest, a, s => storeSlots value rest (a + 4#32) (memWrite (wordAligned a) .word (value r s) s)

/-- The loaded values go to their registers, ascending. -/
def writeSlots (put : Reg → Word → State → State) : List (Reg × Word) → State → State
  | [], s => s
  | (r, v) :: rest, s => writeSlots put rest (put r v s)

end Sys2Proof.Machine
end

