-- ==== Sys2Proof/Machine/BlockTransfer.lean ====
section
/-! DEFINITION. ARM block transfers (R280 to R288). An empty list and a user-bank transfer with write-back have no behaviour
in the spec and are refused by name; a base register in the list runs as R282 says (log 16). -/

namespace Sys2Proof.Machine

/-- Write-back of a block transfer (R282). -/
def blockWriteBack (w : Bool) (rn : Reg) (wb : Word) (s : State) : State := if w then writeReg rn wb s else s

/-- What STM stores for a slot: `link` (which is `cur + 12`) for slot 15, else the register as it then is (R284). -/
def stmValue (link : Word) (r : Reg) (s : State) : Word :=
  if r = 15#4 then link else s.phys (physReg s.cpsr.mode r)

/-- What the user-bank STM stores for a slot (R287). -/
def stmUserValue (link : Word) (r : Reg) (s : State) : Word := if r = 15#4 then link else readUser r s

/-- The stores of STM: the base is written back after the first (R282). -/
def storeBlock (value : Reg → State → Word) (back : State → State) (slots : List Reg) (start : Word) (s : State) : State :=
  match slots with
  | [] => s
  | r :: rest => storeSlots value rest (start + 4#32) (back (memWrite (wordAligned start) .word (value r s) s))

/-- STM, form 1 (R280 to R282, R284). -/
def stmBody (f : BdtFields) (s : State) : Result :=
  let slots := slotsOf f.list
  let base := readArm f.rn s
  if f.list = 0#16 then .refused .emptyRegisterList
  else .next ((storeBlock (stmValue (readArm12 15#4 s)) (blockWriteBack f.w f.rn (blockWb f.u base slots)) slots
    (blockStart f.p f.u base slots) s).charge .storeM)

/-- STM (R284). -/
def execStm (f : BdtFields) (s : State) : Result := guarded f.cond (stmBody f) s

/-- STM, form 2: the user bank, no write-back (R287, U15). -/
def stmUserBody (f : BdtFields) (s : State) : Result :=
  let slots := slotsOf f.list
  if f.list = 0#16 then .refused .emptyRegisterList
  else if f.w then .refused .userBankWriteback
  else .next ((storeSlots (stmUserValue (readArm12 15#4 s)) slots
    (blockStart f.p f.u (readArm f.rn s) slots) s).charge .storeM)

/-- STM of the user bank (R287). -/
def execStmUser (f : BdtFields) (s : State) : Result := guarded f.cond (stmUserBody f) s

/-- LDM, form 1: the accesses, the write-back, then the registers (R280 to R283). -/
def ldmBody (f : BdtFields) (s : State) : Result :=
  let slots := slotsOf f.list
  let base := readArm f.rn s
  let r := loadSlots slots (blockStart f.p f.u base slots) s
  if f.list = 0#16 then .refused .emptyRegisterList
  else .next ((writeSlots writeReg r.1 (blockWriteBack f.w f.rn (blockWb f.u base slots) r.2)).charge .loadM)

/-- LDM (R283). -/
def execLdm (f : BdtFields) (s : State) : Result := guarded f.cond (ldmBody f) s

/-- LDM, form 2: into the user bank, no write-back (R285, U15). -/
def ldmUserBody (f : BdtLowFields) (s : State) : Result :=
  let slots := slotsOf (f.list.setWidth 16)
  let r := loadSlots slots (blockStart f.p f.u (readArm f.rn s) slots) s
  if f.list = 0#15 then .refused .emptyRegisterList
  else if f.w then .refused .userBankWriteback
  else .next ((writeSlots writeUser r.1 r.2).charge .loadM)

/-- LDM of the user bank (R285). -/
def execLdmUser (f : BdtLowFields) (s : State) : Result := guarded f.cond (ldmUserBody f) s

/-- LDM, form 3: the slots below 15 in the current bank with write-back allowed, then the exception return to the word
loaded last (R286, R517). -/
def ldmReturnBody (f : BdtLowFields) (s : State) : Result :=
  let slots := slotsOf (f.list.setWidth 16)
  let all := slotsOf (1#1 ++ f.list)
  let base := readArm f.rn s
  let start := blockStart f.p f.u base all
  let r := loadSlots slots start s
  let x := memRead (wordAligned (start + listBytes slots)) .word r.2
  exceptionReturn x.1 ((writeSlots writeReg r.1 (blockWriteBack f.w f.rn (blockWb f.u base all) x.2)).charge .loadM)

/-- LDM with the CPSR restored (R286). -/
def execLdmReturn (f : BdtLowFields) (s : State) : Result := guarded f.cond (ldmReturnBody f) s

end Sys2Proof.Machine
end

