-- ==== Sys2Proof/Machine/DataProcessing.lean ====
section
/-! DEFINITION. ARM data processing (R200 to R225): sixteen operations in three operand forms. -/

namespace Sys2Proof.Machine

/-- What an operation computes from its first operand and the second operand with the shifter's carry (R200). -/
abbrev AluOp := Word → Word → Bool → Cpsr → AluOut

/-- The result and the destination (R201, R203): `Rd = 15` is a branch, or with S an exception return whose flags do
not come from the result. -/
def dpWrite (sBit : Bool) (rd : Reg) (o : AluOut) (s : State) : Result :=
  if rd = 15#4 then (if sBit then exceptionReturn o.r s else .next (writePc o.r s))
  else .next (if sBit then setFlags o (writeReg rd o.r s) else writeReg rd o.r s)

/-- The result of an operation on an immediate operand (R200, R164). -/
def resultDpImm (f : DpImm) (op : AluOp) (s : State) : AluOut :=
  let b := immOperand f.rotate f.imm8 s.cpsr.c
  op (readArm f.rn s) b.1 b.2 s.cpsr

/-- The result of an operation on a register shifted by an immediate (R200, R164). -/
def resultDpReg (f : DpReg) (op : AluOp) (s : State) : AluOut :=
  let b := shiftImm f.type f.shiftImm (readArm f.rm s) s.cpsr.c
  op (readArm f.rn s) b.1 b.2 s.cpsr

/-- The result of an operation on a register shifted by a register; register 15 reads `cur + 12` (R165, R202, U9). -/
def resultDpRsr (f : DpRsr) (op : AluOp) (s : State) : AluOut :=
  let b := shiftReg f.type (lowByte (readArm12 f.rs s)) (readArm12 f.rm s) s.cpsr.c
  op (readArm12 f.rn s) b.1 b.2 s.cpsr

/-- The result of a compare or test with an immediate operand (R200, R164). -/
def resultCmpImm (f : CmpImm) (op : AluOp) (s : State) : AluOut :=
  let b := immOperand f.rotate f.imm8 s.cpsr.c
  op (readArm f.rn s) b.1 b.2 s.cpsr

/-- The result of a compare or test with a register shifted by an immediate (R200, R164). -/
def resultCmpReg (f : CmpReg) (op : AluOp) (s : State) : AluOut :=
  let b := shiftImm f.type f.shiftImm (readArm f.rm s) s.cpsr.c
  op (readArm f.rn s) b.1 b.2 s.cpsr

/-- The result of a compare or test with a register shifted by a register (R165, R202, U9). -/
def resultCmpRsr (f : CmpRsr) (op : AluOp) (s : State) : AluOut :=
  let b := shiftReg f.type (lowByte (readArm12 f.rs s)) (readArm12 f.rm s) s.cpsr.c
  op (readArm12 f.rn s) b.1 b.2 s.cpsr

/-- A.DPI with a destination (R102, R201, R203). -/
def dpImm (op : AluOp) (f : DpImm) : State → Result :=
  guarded f.cond fun s => dpWrite f.s f.rd (resultDpImm f op s) (s.charge .alu)

/-- A.DPR with a destination (R103, R201, R203). -/
def dpReg (op : AluOp) (f : DpReg) : State → Result :=
  guarded f.cond fun s => dpWrite f.s f.rd (resultDpReg f op s) (s.charge .alu)

/-- A.DPRS with a destination (R104, R201, R203). -/
def dpRsr (op : AluOp) (f : DpRsr) : State → Result :=
  guarded f.cond fun s => dpWrite f.s f.rd (resultDpRsr f op s) (s.charge .aluRshift)

/-- A.DPI without a destination: the flags only (R201, U10). -/
def compareImm (op : AluOp) (f : CmpImm) : State → Result :=
  guarded f.cond fun s => .next (setFlags (resultCmpImm f op s) (s.charge .alu))

/-- A.DPR without a destination: the flags only (R201, U10). -/
def compareReg (op : AluOp) (f : CmpReg) : State → Result :=
  guarded f.cond fun s => .next (setFlags (resultCmpReg f op s) (s.charge .alu))

/-- A.DPRS without a destination: the flags only (R201, U10). -/
def compareRsr (op : AluOp) (f : CmpRsr) : State → Result :=
  guarded f.cond fun s => .next (setFlags (resultCmpRsr f op s) (s.charge .aluRshift))

/-- AND (R210). -/
def execAndImm (f : DpImm) (s : State) : Result := dpImm aluAnd f s

/-- AND (R210). -/
def execAndReg (f : DpReg) (s : State) : Result := dpReg aluAnd f s

/-- AND (R210). -/
def execAndRsr (f : DpRsr) (s : State) : Result := dpRsr aluAnd f s

/-- EOR (R211). -/
def execEorImm (f : DpImm) (s : State) : Result := dpImm aluEor f s

/-- EOR (R211). -/
def execEorReg (f : DpReg) (s : State) : Result := dpReg aluEor f s

/-- EOR (R211). -/
def execEorRsr (f : DpRsr) (s : State) : Result := dpRsr aluEor f s

/-- SUB (R212). -/
def execSubImm (f : DpImm) (s : State) : Result := dpImm aluSub f s

/-- SUB (R212). -/
def execSubReg (f : DpReg) (s : State) : Result := dpReg aluSub f s

/-- SUB (R212). -/
def execSubRsr (f : DpRsr) (s : State) : Result := dpRsr aluSub f s

/-- RSB (R213). -/
def execRsbImm (f : DpImm) (s : State) : Result := dpImm aluRsb f s

/-- RSB (R213). -/
def execRsbReg (f : DpReg) (s : State) : Result := dpReg aluRsb f s

/-- RSB (R213). -/
def execRsbRsr (f : DpRsr) (s : State) : Result := dpRsr aluRsb f s

/-- ADD (R214). -/
def execAddImm (f : DpImm) (s : State) : Result := dpImm aluAdd f s

/-- ADD (R214). -/
def execAddReg (f : DpReg) (s : State) : Result := dpReg aluAdd f s

/-- ADD (R214). -/
def execAddRsr (f : DpRsr) (s : State) : Result := dpRsr aluAdd f s

/-- ADC (R215). -/
def execAdcImm (f : DpImm) (s : State) : Result := dpImm aluAdc f s

/-- ADC (R215). -/
def execAdcReg (f : DpReg) (s : State) : Result := dpReg aluAdc f s

/-- ADC (R215). -/
def execAdcRsr (f : DpRsr) (s : State) : Result := dpRsr aluAdc f s

/-- SBC (R216). -/
def execSbcImm (f : DpImm) (s : State) : Result := dpImm aluSbc f s

/-- SBC (R216). -/
def execSbcReg (f : DpReg) (s : State) : Result := dpReg aluSbc f s

/-- SBC (R216). -/
def execSbcRsr (f : DpRsr) (s : State) : Result := dpRsr aluSbc f s

/-- RSC (R217). -/
def execRscImm (f : DpImm) (s : State) : Result := dpImm aluRsc f s

/-- RSC (R217). -/
def execRscReg (f : DpReg) (s : State) : Result := dpReg aluRsc f s

/-- RSC (R217). -/
def execRscRsr (f : DpRsr) (s : State) : Result := dpRsr aluRsc f s

/-- TST (R218). -/
def execTstImm (f : CmpImm) (s : State) : Result := compareImm aluTst f s

/-- TST (R218). -/
def execTstReg (f : CmpReg) (s : State) : Result := compareReg aluTst f s

/-- TST (R218). -/
def execTstRsr (f : CmpRsr) (s : State) : Result := compareRsr aluTst f s

/-- TEQ (R219). -/
def execTeqImm (f : CmpImm) (s : State) : Result := compareImm aluTeq f s

/-- TEQ (R219). -/
def execTeqReg (f : CmpReg) (s : State) : Result := compareReg aluTeq f s

/-- TEQ (R219). -/
def execTeqRsr (f : CmpRsr) (s : State) : Result := compareRsr aluTeq f s

/-- CMP (R220). -/
def execCmpImm (f : CmpImm) (s : State) : Result := compareImm aluCmp f s

/-- CMP (R220). -/
def execCmpReg (f : CmpReg) (s : State) : Result := compareReg aluCmp f s

/-- CMP (R220). -/
def execCmpRsr (f : CmpRsr) (s : State) : Result := compareRsr aluCmp f s

/-- CMN (R221). -/
def execCmnImm (f : CmpImm) (s : State) : Result := compareImm aluCmn f s

/-- CMN (R221). -/
def execCmnReg (f : CmpReg) (s : State) : Result := compareReg aluCmn f s

/-- CMN (R221). -/
def execCmnRsr (f : CmpRsr) (s : State) : Result := compareRsr aluCmn f s

/-- ORR (R222). -/
def execOrrImm (f : DpImm) (s : State) : Result := dpImm aluOrr f s

/-- ORR (R222). -/
def execOrrReg (f : DpReg) (s : State) : Result := dpReg aluOrr f s

/-- ORR (R222). -/
def execOrrRsr (f : DpRsr) (s : State) : Result := dpRsr aluOrr f s

/-- MOV (R223). -/
def execMovImm (f : DpImm) (s : State) : Result := dpImm aluMov f s

/-- MOV (R223). -/
def execMovReg (f : DpReg) (s : State) : Result := dpReg aluMov f s

/-- MOV (R223). -/
def execMovRsr (f : DpRsr) (s : State) : Result := dpRsr aluMov f s

/-- BIC (R224). -/
def execBicImm (f : DpImm) (s : State) : Result := dpImm aluBic f s

/-- BIC (R224). -/
def execBicReg (f : DpReg) (s : State) : Result := dpReg aluBic f s

/-- BIC (R224). -/
def execBicRsr (f : DpRsr) (s : State) : Result := dpRsr aluBic f s

/-- MVN (R225). -/
def execMvnImm (f : DpImm) (s : State) : Result := dpImm aluMvn f s

/-- MVN (R225). -/
def execMvnReg (f : DpReg) (s : State) : Result := dpReg aluMvn f s

/-- MVN (R225). -/
def execMvnRsr (f : DpRsr) (s : State) : Result := dpRsr aluMvn f s

end Sys2Proof.Machine
end

