-- ==== Sys2Proof/Machine/Multiply.lean ====
section
/-! DEFINITION. ARM multiplies (R240 to R248). Operands are read before any write; operand combinations that U11 calls
UNPREDICTABLE run as the pseudocode is written (log 15). -/

namespace Sys2Proof.Machine

/-- The flags of a 32-bit multiply with S: N and Z from the result, C a free bit, V unchanged (R247, U12; log 9). -/
def mulFlags (r : Word) (s : State) : State :=
  { s with cpsr := s.cpsr.withResult { r := r, c := Config.freeBit s.draws, v := s.cpsr.v }, draws := s.draws + 1 }

/-- The flags of a long multiply with S: N and Z from the 64-bit result, C and V free bits (R247, U12; log 9). -/
def mullFlags (p : BitVec 64) (s : State) : State :=
  { s with
    cpsr := s.cpsr.withResult64 p (Config.freeBit s.draws) (Config.freeBit (s.draws + 1))
    draws := s.draws + 2 }

/-- A 32-bit result to `Rd`, with the flags if S (R240, R241). -/
def mulWrite (sBit : Bool) (rd : Reg) (r : Word) (s : State) : State :=
  if sBit then mulFlags r (writeReg rd r s) else writeReg rd r s

/-- A 64-bit result, the low half to `RdLo` and then the high half to `RdHi`, with the flags if S (R242 to R245). -/
def mullWrite (sBit : Bool) (rdLo rdHi : Reg) (p : BitVec 64) (s : State) : State :=
  let t := writeReg rdHi (p.extractLsb' 32 32) (writeReg rdLo (p.extractLsb' 0 32) s)
  if sBit then mullFlags p t else t

/-- The 64-bit product of two words read as unsigned (R242). -/
def unsignedProduct (m s : Word) : BitVec 64 := BitVec.ofNat 64 (m.toNat * s.toNat)

/-- The 64-bit two's-complement product (R244). -/
def signedProduct (m s : Word) : BitVec 64 := BitVec.ofInt 64 (m.toInt * s.toInt)

/-- The 64-bit value `hi : lo` that the accumulating long forms add (R243, R245). -/
def mullAccumulator (f : MullFields) (s : State) : BitVec 64 := readArm f.rdHi s ++ readArm f.rdLo s

/-- MUL (R240). -/
def execMul (f : MulFields) (s : State) : Result :=
  guarded f.cond (fun s => .next (mulWrite f.s f.rd (readArm f.rm s * readArm f.rs s)
    (s.charge .mul (mcSigned (readArm f.rs s))))) s

/-- MLA (R241). -/
def execMla (f : MulFields) (s : State) : Result :=
  guarded f.cond (fun s => .next (mulWrite f.s f.rd (readArm f.rm s * readArm f.rs s + readArm f.rn s)
    (s.charge .mla (mcSigned (readArm f.rs s))))) s

/-- UMULL (R242). -/
def execUmull (f : MullFields) (s : State) : Result :=
  guarded f.cond (fun s => .next (mullWrite f.s f.rdLo f.rdHi (unsignedProduct (readArm f.rm s) (readArm f.rs s))
    (s.charge .mull (mcUnsigned (readArm f.rs s))))) s

/-- UMLAL (R243). -/
def execUmlal (f : MullFields) (s : State) : Result :=
  guarded f.cond (fun s => .next (mullWrite f.s f.rdLo f.rdHi
    (unsignedProduct (readArm f.rm s) (readArm f.rs s) + mullAccumulator f s)
    (s.charge .mlal (mcUnsigned (readArm f.rs s))))) s

/-- SMULL (R244). -/
def execSmull (f : MullFields) (s : State) : Result :=
  guarded f.cond (fun s => .next (mullWrite f.s f.rdLo f.rdHi (signedProduct (readArm f.rm s) (readArm f.rs s))
    (s.charge .mull (mcSigned (readArm f.rs s))))) s

/-- SMLAL (R245). -/
def execSmlal (f : MullFields) (s : State) : Result :=
  guarded f.cond (fun s => .next (mullWrite f.s f.rdLo f.rdHi
    (signedProduct (readArm f.rm s) (readArm f.rs s) + mullAccumulator f s)
    (s.charge .mlal (mcSigned (readArm f.rs s))))) s

end Sys2Proof.Machine
end

