-- ==== Sys2Proof/Machine/SingleTransfer.lean ====
section
/-! DEFINITION. ARM word and byte transfers (R260 to R270), halfword and signed transfers (R271 to R275), swaps (R290, R291).
Register combinations that U16, U17, U18 and U22 call UNPREDICTABLE run as the pseudocode is written (log 14). -/

namespace Sys2Proof.Machine

/-- LDR, A.SDTI, P = 1 (R261). -/
def execLdrImmPre (f : SdtImmPre) (s : State) : Result :=
  guarded f.cond (fun s => .next (singleLoad .word (addrSdtImmPre f s) f.rn f.rd s)) s

/-- LDR, A.SDTI, P = 0 (R261). -/
def execLdrImmPost (f : SdtImmPost) (s : State) : Result :=
  guarded f.cond (fun s => .next (singleLoad .word (addrSdtImmPost f s) f.rn f.rd s)) s

/-- LDRT, A.SDTI: exactly the post-indexed form (R266, R267). -/
def execLdrtImm (f : SdtImmPost) (s : State) : Result :=
  guarded f.cond (fun s => .next (singleLoad .word (addrSdtImmPost f s) f.rn f.rd s)) s

/-- STR, A.SDTI, P = 1 (R262); register 15 is stored as `cur + 12` (R27). -/
def execStrImmPre (f : SdtImmPre) (s : State) : Result :=
  guarded f.cond (fun s => .next (singleStore .word (addrSdtImmPre f s) f.rn (readArm12 f.rd s) s)) s

/-- STR, A.SDTI, P = 0 (R262); register 15 is stored as `cur + 12` (R27). -/
def execStrImmPost (f : SdtImmPost) (s : State) : Result :=
  guarded f.cond (fun s => .next (singleStore .word (addrSdtImmPost f s) f.rn (readArm12 f.rd s) s)) s

/-- STRT, A.SDTI: exactly the post-indexed form (R266, R269). -/
def execStrtImm (f : SdtImmPost) (s : State) : Result :=
  guarded f.cond (fun s => .next (singleStore .word (addrSdtImmPost f s) f.rn (readArm12 f.rd s) s)) s

/-- LDRB, A.SDTI, P = 1 (R263). -/
def execLdrbImmPre (f : SdtImmPre) (s : State) : Result :=
  guarded f.cond (fun s => .next (singleLoad .byte (addrSdtImmPre f s) f.rn f.rd s)) s

/-- LDRB, A.SDTI, P = 0 (R263). -/
def execLdrbImmPost (f : SdtImmPost) (s : State) : Result :=
  guarded f.cond (fun s => .next (singleLoad .byte (addrSdtImmPost f s) f.rn f.rd s)) s

/-- LDRBT, A.SDTI: exactly the post-indexed form (R266, R268). -/
def execLdrbtImm (f : SdtImmPost) (s : State) : Result :=
  guarded f.cond (fun s => .next (singleLoad .byte (addrSdtImmPost f s) f.rn f.rd s)) s

/-- STRB, A.SDTI, P = 1 (R264); register 15 is stored as `cur + 12` (R27). -/
def execStrbImmPre (f : SdtImmPre) (s : State) : Result :=
  guarded f.cond (fun s => .next (singleStore .byte (addrSdtImmPre f s) f.rn (readArm12 f.rd s) s)) s

/-- STRB, A.SDTI, P = 0 (R264); register 15 is stored as `cur + 12` (R27). -/
def execStrbImmPost (f : SdtImmPost) (s : State) : Result :=
  guarded f.cond (fun s => .next (singleStore .byte (addrSdtImmPost f s) f.rn (readArm12 f.rd s) s)) s

/-- STRBT, A.SDTI: exactly the post-indexed form (R266, R270). -/
def execStrbtImm (f : SdtImmPost) (s : State) : Result :=
  guarded f.cond (fun s => .next (singleStore .byte (addrSdtImmPost f s) f.rn (readArm12 f.rd s) s)) s

/-- LDR, A.SDTR, P = 1 (R261). -/
def execLdrRegPre (f : SdtRegPre) (s : State) : Result :=
  guarded f.cond (fun s => .next (singleLoad .word (addrSdtRegPre f s) f.rn f.rd s)) s

/-- LDR, A.SDTR, P = 0 (R261). -/
def execLdrRegPost (f : SdtRegPost) (s : State) : Result :=
  guarded f.cond (fun s => .next (singleLoad .word (addrSdtRegPost f s) f.rn f.rd s)) s

/-- LDRT, A.SDTR: exactly the post-indexed form (R266, R267). -/
def execLdrtReg (f : SdtRegPost) (s : State) : Result :=
  guarded f.cond (fun s => .next (singleLoad .word (addrSdtRegPost f s) f.rn f.rd s)) s

/-- STR, A.SDTR, P = 1 (R262); register 15 is stored as `cur + 12` (R27). -/
def execStrRegPre (f : SdtRegPre) (s : State) : Result :=
  guarded f.cond (fun s => .next (singleStore .word (addrSdtRegPre f s) f.rn (readArm12 f.rd s) s)) s

/-- STR, A.SDTR, P = 0 (R262); register 15 is stored as `cur + 12` (R27). -/
def execStrRegPost (f : SdtRegPost) (s : State) : Result :=
  guarded f.cond (fun s => .next (singleStore .word (addrSdtRegPost f s) f.rn (readArm12 f.rd s) s)) s

/-- STRT, A.SDTR: exactly the post-indexed form (R266, R269). -/
def execStrtReg (f : SdtRegPost) (s : State) : Result :=
  guarded f.cond (fun s => .next (singleStore .word (addrSdtRegPost f s) f.rn (readArm12 f.rd s) s)) s

/-- LDRB, A.SDTR, P = 1 (R263). -/
def execLdrbRegPre (f : SdtRegPre) (s : State) : Result :=
  guarded f.cond (fun s => .next (singleLoad .byte (addrSdtRegPre f s) f.rn f.rd s)) s

/-- LDRB, A.SDTR, P = 0 (R263). -/
def execLdrbRegPost (f : SdtRegPost) (s : State) : Result :=
  guarded f.cond (fun s => .next (singleLoad .byte (addrSdtRegPost f s) f.rn f.rd s)) s

/-- LDRBT, A.SDTR: exactly the post-indexed form (R266, R268). -/
def execLdrbtReg (f : SdtRegPost) (s : State) : Result :=
  guarded f.cond (fun s => .next (singleLoad .byte (addrSdtRegPost f s) f.rn f.rd s)) s

/-- STRB, A.SDTR, P = 1 (R264); register 15 is stored as `cur + 12` (R27). -/
def execStrbRegPre (f : SdtRegPre) (s : State) : Result :=
  guarded f.cond (fun s => .next (singleStore .byte (addrSdtRegPre f s) f.rn (readArm12 f.rd s) s)) s

/-- STRB, A.SDTR, P = 0 (R264); register 15 is stored as `cur + 12` (R27). -/
def execStrbRegPost (f : SdtRegPost) (s : State) : Result :=
  guarded f.cond (fun s => .next (singleStore .byte (addrSdtRegPost f s) f.rn (readArm12 f.rd s) s)) s

/-- STRBT, A.SDTR: exactly the post-indexed form (R266, R270). -/
def execStrbtReg (f : SdtRegPost) (s : State) : Result :=
  guarded f.cond (fun s => .next (singleStore .byte (addrSdtRegPost f s) f.rn (readArm12 f.rd s) s)) s

/-- STRH, A.HSR (R272, R271); register 15 is stored as `cur + 12` (R27; log 27). -/
def execStrhReg (f : HsReg) (s : State) : Result :=
  guarded f.cond (fun s => .next (singleStore .half (addrHsReg f s) f.rn (readArm12 f.rd s) s)) s

/-- STRH, A.HSI (R272, R271); register 15 is stored as `cur + 12` (R27; log 27). -/
def execStrhImm (f : HsImm) (s : State) : Result :=
  guarded f.cond (fun s => .next (singleStore .half (addrHsImm f s) f.rn (readArm12 f.rd s) s)) s

/-- LDRH, A.HSR (R273, R271). -/
def execLdrhReg (f : HsReg) (s : State) : Result :=
  guarded f.cond (fun s => .next (singleLoad .half (addrHsReg f s) f.rn f.rd s)) s

/-- LDRH, A.HSI (R273, R271). -/
def execLdrhImm (f : HsImm) (s : State) : Result :=
  guarded f.cond (fun s => .next (singleLoad .half (addrHsImm f s) f.rn f.rd s)) s

/-- LDRSB, A.HSR (R274, R271). -/
def execLdrsbReg (f : HsReg) (s : State) : Result :=
  guarded f.cond (fun s => .next (singleLoad .signedByte (addrHsReg f s) f.rn f.rd s)) s

/-- LDRSB, A.HSI (R274, R271). -/
def execLdrsbImm (f : HsImm) (s : State) : Result :=
  guarded f.cond (fun s => .next (singleLoad .signedByte (addrHsImm f s) f.rn f.rd s)) s

/-- LDRSH, A.HSR (R275, R271). -/
def execLdrshReg (f : HsReg) (s : State) : Result :=
  guarded f.cond (fun s => .next (singleLoad .signedHalf (addrHsReg f s) f.rn f.rd s)) s

/-- LDRSH, A.HSI (R275, R271). -/
def execLdrshImm (f : HsImm) (s : State) : Result :=
  guarded f.cond (fun s => .next (singleLoad .signedHalf (addrHsImm f s) f.rn f.rd s)) s

/-- A swap: read, write, then the register; the stored value was read before (R73, R290, R291). -/
def swap (k : LoadKind) (w : Width) (ea v : Word) (rd : Reg) (s : State) : State :=
  let r := loadAt k ea s
  (writeReg rd r.1 (storeAt w ea v r.2)).charge .swap

/-- SWP (R290). -/
def execSwp (f : SwpFields) (s : State) : Result :=
  guarded f.cond (fun s => .next (swap .word .word (readArm f.rn s) (readArm f.rm s) f.rd s)) s

/-- SWPB (R291). -/
def execSwpb (f : SwpFields) (s : State) : Result :=
  guarded f.cond (fun s => .next (swap .byte .byte (readArm f.rn s) (readArm f.rm s) f.rd s)) s

end Sys2Proof.Machine
end

