-- ==== Sys2Proof/Machine/StatusBranch.lean ====
section
/-! DEFINITION. ARM branches (R300 to R302), status-register access (R305, R306), software interrupt, undefined and
coprocessor rows (R310 to R317). -/

namespace Sys2Proof.Machine

/-! ## Status-register access -/

/-- The 32 bits MRS reads: the CPSR, the current mode's SPSR, or any value where the mode has none (R305, U3; log 10). -/
def mrsValue (r : Bool) (s : State) : Word :=
  if r then
    match excModeOf s.cpsr.mode with
    | some b => (s.spsr b).toWord
    | none => Config.freeWord s.draws
  else s.cpsr.toWord

/-- A free value is used up only where MRS reads one. -/
def mrsDraw (r : Bool) (s : State) : State :=
  if r && (excModeOf s.cpsr.mode).isNone then { s with draws := s.draws + 1 } else s

/-- MRS (R305, U25). -/
def execMrs (f : MrsFields) (s : State) : Result :=
  guarded f.cond (fun s => .next (writeReg f.rd (mrsValue f.r s) (mrsDraw f.r (s.charge .psr)))) s

/-- The bits the field mask selects; bit 3 down to bit 0 is f, s, x, c (R306). -/
def byteMask (m : BitVec 4) : Word :=
  (if m.getLsbD 0 then 0x000000FF#32 else 0#32) ||| (if m.getLsbD 1 then 0x0000FF00#32 else 0#32) |||
    (if m.getLsbD 2 then 0x00FF0000#32 else 0#32) ||| (if m.getLsbD 3 then 0xFF000000#32 else 0#32)

/-- The CPSR bits MSR may write: in User mode the flags only; never T, never a reserved bit (R306). -/
def cpsrWritable (m : Mode) : Word := if m = .usr then 0xF0000000#32 else 0xF00000DF#32

/-- The SPSR bits MSR may write (R306). -/
def spsrWritable : Word := 0xF00000FF#32

/-- `(old & ~mask) | (operand & mask)` (R306). -/
def mergeBits (old operand mask : Word) : Word := (old &&& ~~~mask) ||| (operand &&& mask)

/-- MSR to the CPSR: an illegal mode number faults (R306, U1, U2). -/
def msrCpsr (fieldMask : BitVec 4) (operand : Word) (s : State) : Result :=
  match (spsrOfWord (mergeBits s.cpsr.toWord operand (byteMask fieldMask &&& cpsrWritable s.cpsr.mode))).restore with
  | some p => .next (s.setCpsr p)
  | none => .fault .illegalMode

/-- MSR to the SPSR: nothing is written in User and System mode (R306, U3). -/
def msrSpsr (fieldMask : BitVec 4) (operand : Word) (s : State) : State :=
  match excModeOf s.cpsr.mode with
  | some b =>
    s.setSpsr b (spsrOfWord (mergeBits (s.spsr b).toWord operand (byteMask fieldMask &&& spsrWritable)))
  | none => s

/-- MSR with its operand computed (R306). -/
def msr (r : Bool) (fieldMask : BitVec 4) (operand : Word) (s : State) : Result :=
  if r then .next (msrSpsr fieldMask operand s) else msrCpsr fieldMask operand s

/-- MSR, register form (R306, U25). -/
def execMsrReg (f : MsrRegFields) (s : State) : Result :=
  guarded f.cond (fun s => msr f.r f.fieldMask (readArm f.rm s) (s.charge .psr)) s

/-- MSR, immediate form: the shifter's carry is not used (R306, R164). -/
def execMsrImm (f : MsrImmFields) (s : State) : Result :=
  guarded f.cond (fun s => msr f.r f.fieldMask (immOperand f.rotate f.imm8 s.cpsr.c).1 (s.charge .psr)) s

/-! ## Branches -/

/-- `CPSR.T <- v[0]; pc <- v` aligned for the new T (R302, R368). -/
def branchExchange (v : Word) (s : State) : State :=
  writePc v (s.setCpsr { s.cpsr with t := v.getLsbD 0 })

/-- BX (R302, U19). -/
def execBx (f : BxFields) (s : State) : Result :=
  guarded f.cond (fun s => .next (branchExchange (readArm f.rm s) (s.charge .branch))) s

/-- The target of B and BL: `cur + 8` and the offset (R300). -/
def branchTarget (f : BranchFields) (s : State) : Word := readArm 15#4 s + armBranchOffset f.offset24

/-- B (R300). -/
def execB (f : BranchFields) (s : State) : Result :=
  guarded f.cond (fun s => .next (writePc (branchTarget f s) (s.charge .branch))) s

/-- BL: the link is `cur + 4`, which is pc as it stands (R301). -/
def execBl (f : BranchFields) (s : State) : Result :=
  guarded f.cond (fun s => .next (writePc (branchTarget f s) (writeReg 14#4 s.pc (s.charge .branch)))) s

/-! ## Software interrupt, undefined and coprocessor rows -/

/-- SWI (R310, R511). -/
def execSwi (f : SwiFields) (s : State) : Result := guarded f.cond takeSwi s

/-- The UND row (R311, R510). -/
def execUnd (f : UndFields) (s : State) : Result := guarded f.cond takeUndefined s

/-- STC: no coprocessor accepts it (R312, R315). -/
def execStc (f : CpdtFields) (s : State) : Result := guarded f.cond takeUndefined s

/-- LDC (R312, R314). -/
def execLdc (f : CpdtFields) (s : State) : Result := guarded f.cond takeUndefined s

/-- CDP (R312, R313). -/
def execCdp (f : CdpFields) (s : State) : Result := guarded f.cond takeUndefined s

/-- MCR (R312, R317). -/
def execMcr (f : CrtFields) (s : State) : Result := guarded f.cond takeUndefined s

/-- MRC (R312, R316). -/
def execMrc (f : CrtFields) (s : State) : Result := guarded f.cond takeUndefined s

end Sys2Proof.Machine
end

