-- ==== Sys2Proof/Machine/ThumbAlu.lean ====
section
/-! DEFINITION. THUMB register and arithmetic instructions: formats 1 to 5 (not BX), 12 and 13 (R325 to R378). -/

namespace Sys2Proof.Machine

/-- A result to a low register with its flags (R325). -/
def thumbWrite (rd : LowReg) (o : AluOut) (s : State) : State := setFlags o (writeReg rd.slot o.r s)

/-- A low register's value. -/
def low (r : LowReg) (s : State) : Word := readThumb r.slot s

/-! ## Format 1 (R330 to R332) -/

/-- A shift by an immediate with its flags: C from the shifter, V unchanged. -/
def thumbShiftImm (type : ShiftType) (offset5 : BitVec 5) (rs rd : LowReg) (s : State) : State :=
  let b := shiftImm type offset5 (low rs s) s.cpsr.c
  thumbWrite rd (logical b.1 b.2 s.cpsr) (s.charge .alu)

/-- LSL (R330). -/
def execTLslImm (offset5 : BitVec 5) (rs rd : LowReg) (s : State) : Result := .next (thumbShiftImm .lsl offset5 rs rd s)

/-- LSR (R331). -/
def execTLsrImm (offset5 : BitVec 5) (rs rd : LowReg) (s : State) : Result := .next (thumbShiftImm .lsr offset5 rs rd s)

/-- ASR (R332). -/
def execTAsrImm (offset5 : BitVec 5) (rs rd : LowReg) (s : State) : Result := .next (thumbShiftImm .asr offset5 rs rd s)

/-! ## Format 2 (R335 to R338) -/

/-- ADD, register (R335). -/
def execTAddReg (rn rs rd : LowReg) (s : State) : Result :=
  .next (thumbWrite rd (addWithCarry (low rs s) (low rn s) false) (s.charge .alu))

/-- SUB, register (R336). -/
def execTSubReg (rn rs rd : LowReg) (s : State) : Result :=
  .next (thumbWrite rd (addWithCarry (low rs s) (~~~low rn s) true) (s.charge .alu))

/-- ADD, 3-bit immediate (R337). -/
def execTAddImm3 (imm3 : BitVec 3) (rs rd : LowReg) (s : State) : Result :=
  .next (thumbWrite rd (addWithCarry (low rs s) (imm3.setWidth 32) false) (s.charge .alu))

/-- SUB, 3-bit immediate (R338). -/
def execTSubImm3 (imm3 : BitVec 3) (rs rd : LowReg) (s : State) : Result :=
  .next (thumbWrite rd (addWithCarry (low rs s) (~~~imm3.setWidth 32) true) (s.charge .alu))

/-! ## Format 3 (R340 to R343) -/

/-- MOV, 8-bit immediate: C and V unchanged (R340). -/
def execTMovImm8 (rd : LowReg) (imm8 : BitVec 8) (s : State) : Result :=
  .next (thumbWrite rd (keepCV (imm8.setWidth 32) s.cpsr) (s.charge .alu))

/-- CMP, 8-bit immediate (R341). -/
def execTCmpImm8 (rd : LowReg) (imm8 : BitVec 8) (s : State) : Result :=
  .next (setFlags (addWithCarry (low rd s) (~~~imm8.setWidth 32) true) (s.charge .alu))

/-- ADD, 8-bit immediate (R342). -/
def execTAddImm8 (rd : LowReg) (imm8 : BitVec 8) (s : State) : Result :=
  .next (thumbWrite rd (addWithCarry (low rd s) (imm8.setWidth 32) false) (s.charge .alu))

/-- SUB, 8-bit immediate (R343). -/
def execTSubImm8 (rd : LowReg) (imm8 : BitVec 8) (s : State) : Result :=
  .next (thumbWrite rd (addWithCarry (low rd s) (~~~imm8.setWidth 32) true) (s.charge .alu))

/-! ## Format 4 (R345 to R360) -/

/-- A shift by the low byte of `Rs` with its flags: C from the shifter, V unchanged; one internal cycle. -/
def thumbShiftReg (type : ShiftType) (rs rd : LowReg) (s : State) : State :=
  let b := shiftReg type (lowByte (low rs s)) (low rd s) s.cpsr.c
  thumbWrite rd (logical b.1 b.2 s.cpsr) (s.charge .aluRshift)

/-- AND (R345). -/
def execTAnd (rs rd : LowReg) (s : State) : Result :=
  .next (thumbWrite rd (keepCV (low rd s &&& low rs s) s.cpsr) (s.charge .alu))

/-- EOR (R346). -/
def execTEor (rs rd : LowReg) (s : State) : Result :=
  .next (thumbWrite rd (keepCV (low rd s ^^^ low rs s) s.cpsr) (s.charge .alu))

/-- LSL (R347). -/
def execTLsl (rs rd : LowReg) (s : State) : Result := .next (thumbShiftReg .lsl rs rd s)

/-- LSR (R348). -/
def execTLsr (rs rd : LowReg) (s : State) : Result := .next (thumbShiftReg .lsr rs rd s)

/-- ASR (R349). -/
def execTAsr (rs rd : LowReg) (s : State) : Result := .next (thumbShiftReg .asr rs rd s)

/-- ADC (R350). -/
def execTAdc (rs rd : LowReg) (s : State) : Result :=
  .next (thumbWrite rd (addWithCarry (low rd s) (low rs s) s.cpsr.c) (s.charge .alu))

/-- SBC (R351). -/
def execTSbc (rs rd : LowReg) (s : State) : Result :=
  .next (thumbWrite rd (addWithCarry (low rd s) (~~~low rs s) s.cpsr.c) (s.charge .alu))

/-- ROR (R352). -/
def execTRor (rs rd : LowReg) (s : State) : Result := .next (thumbShiftReg .ror rs rd s)

/-- TST (R353). -/
def execTTst (rs rd : LowReg) (s : State) : Result :=
  .next (setFlags (keepCV (low rd s &&& low rs s) s.cpsr) (s.charge .alu))

/-- NEG: `Rd` is no operand (R354). -/
def execTNeg (rs rd : LowReg) (s : State) : Result :=
  .next (thumbWrite rd (addWithCarry 0#32 (~~~low rs s) true) (s.charge .alu))

/-- CMP (R355). -/
def execTCmp (rs rd : LowReg) (s : State) : Result :=
  .next (setFlags (addWithCarry (low rd s) (~~~low rs s) true) (s.charge .alu))

/-- CMN (R356). -/
def execTCmn (rs rd : LowReg) (s : State) : Result :=
  .next (setFlags (addWithCarry (low rd s) (low rs s) false) (s.charge .alu))

/-- ORR (R357). -/
def execTOrr (rs rd : LowReg) (s : State) : Result :=
  .next (thumbWrite rd (keepCV (low rd s ||| low rs s) s.cpsr) (s.charge .alu))

/-- MUL: C is a free bit, V unchanged; the internal cycles go by the old `Rd` (R358, U12; log 9). -/
def execTMul (rs rd : LowReg) (s : State) : Result :=
  let t := thumbWrite rd { r := low rd s * low rs s, c := Config.freeBit s.draws, v := s.cpsr.v }
    (s.charge .mul (mcSigned (low rd s)))
  .next { t with draws := s.draws + 1 }

/-- BIC (R359). -/
def execTBic (rs rd : LowReg) (s : State) : Result :=
  .next (thumbWrite rd (keepCV (low rd s &&& ~~~low rs s) s.cpsr) (s.charge .alu))

/-- MVN (R360). -/
def execTMvn (rs rd : LowReg) (s : State) : Result :=
  .next (thumbWrite rd (keepCV (~~~low rs s) s.cpsr) (s.charge .alu))

/-! ## Format 5 (R365 to R367) -/

/-- The slot an H bit and a register field name. -/
def highSlot (h : Bool) (r : LowReg) : Reg := BitVec.ofBool h ++ r

/-- ADD, high registers: no flags; slot 15 is a branch (R365, U20). -/
def execTAddHi (h1 h2 : Bool) (rs rd : LowReg) (s : State) : Result :=
  .next (writeReg (highSlot h1 rd) (readThumb (highSlot h1 rd) s + readThumb (highSlot h2 rs) s) (s.charge .alu))

/-- CMP, high registers (R366, U20). -/
def execTCmpHi (h1 h2 : Bool) (rs rd : LowReg) (s : State) : Result :=
  .next (setFlags (addWithCarry (readThumb (highSlot h1 rd) s) (~~~readThumb (highSlot h2 rs) s) true) (s.charge .alu))

/-- MOV, high registers: no flags; slot 15 is a branch (R367, U20). -/
def execTMovHi (h1 h2 : Bool) (rs rd : LowReg) (s : State) : Result :=
  .next (writeReg (highSlot h1 rd) (readThumb (highSlot h2 rs) s) (s.charge .alu))

/-! ## Formats 12 and 13 (R375 to R378) -/

/-- ADD Rd, PC (R375). -/
def execTAddPc (rd : LowReg) (word8 : BitVec 8) (s : State) : Result :=
  .next (writeReg rd.slot (thumbPcBase s + scaled4 word8) (s.charge .alu))

/-- ADD Rd, SP (R376). -/
def execTAddSp (rd : LowReg) (word8 : BitVec 8) (s : State) : Result :=
  .next (writeReg rd.slot (readThumb 13#4 s + scaled4 word8) (s.charge .alu))

/-- ADD SP (R377). -/
def execTIncSp (sword7 : BitVec 7) (s : State) : Result :=
  .next (writeReg 13#4 (readThumb 13#4 s + scaled4 sword7) (s.charge .alu))

/-- SUB SP (R378). -/
def execTDecSp (sword7 : BitVec 7) (s : State) : Result :=
  .next (writeReg 13#4 (readThumb 13#4 s - scaled4 sword7) (s.charge .alu))

end Sys2Proof.Machine
end

