-- ==== Sys2Proof/Machine/ThumbBranch.lean ====
section
/-! DEFINITION. THUMB branches, software interrupt and undefined: formats 5 (BX) and 16 to 19 (R368, R430 to R438). -/

namespace Sys2Proof.Machine

/-- BX (R368, U19). -/
def execTBx (h2 : Bool) (rs : LowReg) (_sbz : BitVec 3) (s : State) : Result :=
  .next (branchExchange (readThumb (highSlot h2 rs) s) (s.charge .branch))

/-- The target of the conditional branch (R430). -/
def condBranchTarget (soffset8 : BitVec 8) (s : State) : Word := readThumb 15#4 s + condBranchOffset soffset8

/-- The conditional branch: a failed condition does nothing (R430). -/
def condBranch (c : Cond) (soffset8 : BitVec 8) (s : State) : State :=
  if condPassed c s.cpsr then writePc (condBranchTarget soffset8 s) (s.charge .branch) else s

/-- BEQ (R430). -/
def execTBeq (soffset8 : BitVec 8) (s : State) : Result := .next (condBranch .eq soffset8 s)

/-- BNE (R430). -/
def execTBne (soffset8 : BitVec 8) (s : State) : Result := .next (condBranch .ne soffset8 s)

/-- BCS (R430). -/
def execTBcs (soffset8 : BitVec 8) (s : State) : Result := .next (condBranch .cs soffset8 s)

/-- BCC (R430). -/
def execTBcc (soffset8 : BitVec 8) (s : State) : Result := .next (condBranch .cc soffset8 s)

/-- BMI (R430). -/
def execTBmi (soffset8 : BitVec 8) (s : State) : Result := .next (condBranch .mi soffset8 s)

/-- BPL (R430). -/
def execTBpl (soffset8 : BitVec 8) (s : State) : Result := .next (condBranch .pl soffset8 s)

/-- BVS (R430). -/
def execTBvs (soffset8 : BitVec 8) (s : State) : Result := .next (condBranch .vs soffset8 s)

/-- BVC (R430). -/
def execTBvc (soffset8 : BitVec 8) (s : State) : Result := .next (condBranch .vc soffset8 s)

/-- BHI (R430). -/
def execTBhi (soffset8 : BitVec 8) (s : State) : Result := .next (condBranch .hi soffset8 s)

/-- BLS (R430). -/
def execTBls (soffset8 : BitVec 8) (s : State) : Result := .next (condBranch .ls soffset8 s)

/-- BGE (R430). -/
def execTBge (soffset8 : BitVec 8) (s : State) : Result := .next (condBranch .ge soffset8 s)

/-- BLT (R430). -/
def execTBlt (soffset8 : BitVec 8) (s : State) : Result := .next (condBranch .lt soffset8 s)

/-- BGT (R430). -/
def execTBgt (soffset8 : BitVec 8) (s : State) : Result := .next (condBranch .gt soffset8 s)

/-- BLE (R430). -/
def execTBle (soffset8 : BitVec 8) (s : State) : Result := .next (condBranch .le soffset8 s)

/-- The undefined pattern 0xDE00 to 0xDEFF (R438, R510). -/
def execTUnd (_any : BitVec 8) (s : State) : Result := takeUndefined s

/-- SWI (R435, R511). -/
def execTSwi (_value8 : BitVec 8) (s : State) : Result := takeSwi s

/-- B (R431). -/
def execTB (offset11 : BitVec 11) (s : State) : Result :=
  .next (writePc (readThumb 15#4 s + branchOffset offset11) (s.charge .branch))

/-- BL, first half (R436). -/
def execTBlFirst (offset11 : BitVec 11) (s : State) : Result :=
  .next (writeReg 14#4 (readThumb 15#4 s + blHighOffset offset11) (s.charge .blPrefix))

/-- BL, second half: the link is `cur + 2` with bit 0 set, and `cur + 2` is pc as it stands (R437, U23). -/
def execTBlSecond (offset11 : BitVec 11) (s : State) : Result :=
  .next (writeReg 14#4 (s.pc ||| 1#32) (writePc (readThumb 14#4 s + blLowOffset offset11) (s.charge .branch)))

end Sys2Proof.Machine
end

