-- ==== Sys2Proof/Machine/ThumbTransfer.lean ====
section
/-! DEFINITION. THUMB loads and stores, formats 6 to 11 (R385 to R406), push, pop and block transfers, formats 14 and 15
(R410 to R413). -/

namespace Sys2Proof.Machine

/-- A single THUMB load: no write-back (R385). -/
def thumbLoad (k : LoadKind) (ea : Word) (rd : LowReg) (s : State) : State :=
  let r := loadAt k ea s
  (writeReg rd.slot r.1 r.2).charge .load

/-- A single THUMB store: no write-back (R385). -/
def thumbStore (w : Width) (ea : Word) (rd : LowReg) (s : State) : State := (storeAt w ea (low rd s) s).charge .store

/-- `x[Rb] + x[Ro]`, formats 7 and 8. -/
def regOffset (ro rb : LowReg) (s : State) : Word := low rb s + low ro s

/-- LDR, pc-relative (R390). -/
def execTLdrPc (rd : LowReg) (word8 : BitVec 8) (s : State) : Result :=
  .next (thumbLoad .word (thumbPcBase s + scaled4 word8) rd s)

/-- STR (R391). -/
def execTStrReg (ro rb rd : LowReg) (s : State) : Result := .next (thumbStore .word (regOffset ro rb s) rd s)

/-- STRB (R392). -/
def execTStrbReg (ro rb rd : LowReg) (s : State) : Result := .next (thumbStore .byte (regOffset ro rb s) rd s)

/-- LDR (R393). -/
def execTLdrReg (ro rb rd : LowReg) (s : State) : Result := .next (thumbLoad .word (regOffset ro rb s) rd s)

/-- LDRB (R394). -/
def execTLdrbReg (ro rb rd : LowReg) (s : State) : Result := .next (thumbLoad .byte (regOffset ro rb s) rd s)

/-- STRH (R395). -/
def execTStrhReg (ro rb rd : LowReg) (s : State) : Result := .next (thumbStore .half (regOffset ro rb s) rd s)

/-- LDSB (R396). -/
def execTLdsbReg (ro rb rd : LowReg) (s : State) : Result := .next (thumbLoad .signedByte (regOffset ro rb s) rd s)

/-- LDRH (R397). -/
def execTLdrhReg (ro rb rd : LowReg) (s : State) : Result := .next (thumbLoad .half (regOffset ro rb s) rd s)

/-- LDSH (R398). -/
def execTLdshReg (ro rb rd : LowReg) (s : State) : Result := .next (thumbLoad .signedHalf (regOffset ro rb s) rd s)

/-- STR, immediate offset (R399). -/
def execTStrImm (offset5 : BitVec 5) (rb rd : LowReg) (s : State) : Result :=
  .next (thumbStore .word (low rb s + scaled4 offset5) rd s)

/-- LDR, immediate offset (R400). -/
def execTLdrImm (offset5 : BitVec 5) (rb rd : LowReg) (s : State) : Result :=
  .next (thumbLoad .word (low rb s + scaled4 offset5) rd s)

/-- STRB, immediate offset (R401). -/
def execTStrbImm (offset5 : BitVec 5) (rb rd : LowReg) (s : State) : Result :=
  .next (thumbStore .byte (low rb s + offset5.setWidth 32) rd s)

/-- LDRB, immediate offset (R402). -/
def execTLdrbImm (offset5 : BitVec 5) (rb rd : LowReg) (s : State) : Result :=
  .next (thumbLoad .byte (low rb s + offset5.setWidth 32) rd s)

/-- STRH, immediate offset (R403). -/
def execTStrhImm (offset5 : BitVec 5) (rb rd : LowReg) (s : State) : Result :=
  .next (thumbStore .half (low rb s + scaled2 offset5) rd s)

/-- LDRH, immediate offset (R404). -/
def execTLdrhImm (offset5 : BitVec 5) (rb rd : LowReg) (s : State) : Result :=
  .next (thumbLoad .half (low rb s + scaled2 offset5) rd s)

/-- STR, sp-relative (R405). -/
def execTStrSp (rd : LowReg) (word8 : BitVec 8) (s : State) : Result :=
  .next (thumbStore .word (readThumb 13#4 s + scaled4 word8) rd s)

/-- LDR, sp-relative (R406). -/
def execTLdrSp (rd : LowReg) (word8 : BitVec 8) (s : State) : Result :=
  .next (thumbLoad .word (readThumb 13#4 s + scaled4 word8) rd s)

/-- The slots of PUSH: `rlist`, then r14 if R (R410). -/
def pushSlots (r : Bool) (rlist : BitVec 8) : List Reg := slotsOf (0#1 ++ BitVec.ofBool r ++ 0#6 ++ rlist)

/-- The slots of POP: `rlist`, then pc if R (R411). -/
def popSlots (r : Bool) (rlist : BitVec 8) : List Reg := slotsOf (BitVec.ofBool r ++ 0#7 ++ rlist)

/-- The slots of STMIA and LDMIA (R412, R413). -/
def lowSlots (rlist : BitVec 8) : List Reg := slotsOf (rlist.setWidth 16)

/-- PUSH (R410, U24). -/
def execTPush (r : Bool) (rlist : BitVec 8) (s : State) : Result :=
  let slots := pushSlots r rlist
  let start := readThumb 13#4 s - listBytes slots
  if r = false ∧ rlist = 0#8 then .refused .emptyRegisterList
  else .next ((writeReg 13#4 start (storeSlots readThumb slots start s)).charge .storeM)

/-- POP: the registers, then sp (R411, U24). -/
def execTPop (r : Bool) (rlist : BitVec 8) (s : State) : Result :=
  let slots := popSlots r rlist
  let sp := readThumb 13#4 s
  let x := loadSlots slots sp s
  if r = false ∧ rlist = 0#8 then .refused .emptyRegisterList
  else .next ((writeReg 13#4 (sp + listBytes slots) (writeSlots writeReg x.1 x.2)).charge .loadM)

/-- The stores of STMIA: the base is written back after the first (R412). -/
def thumbStoreBlock (rb : LowReg) (slots : List Reg) (base : Word) (s : State) : State :=
  match slots with
  | [] => s
  | r :: rest =>
    storeSlots readThumb rest (base + 4#32)
      (writeReg rb.slot (base + listBytes slots) (memWrite (wordAligned base) .word (readThumb r s) s))

/-- STMIA (R412, U24). -/
def execTStmia (rb : LowReg) (rlist : BitVec 8) (s : State) : Result :=
  if rlist = 0#8 then .refused .emptyRegisterList
  else .next ((thumbStoreBlock rb (lowSlots rlist) (low rb s) s).charge .storeM)

/-- LDMIA: no write-back if the base is in the list (R413, U24). -/
def execTLdmia (rb : LowReg) (rlist : BitVec 8) (s : State) : Result :=
  let slots := lowSlots rlist
  let base := low rb s
  let x := loadSlots slots base s
  let t := writeSlots writeReg x.1 x.2
  if rlist = 0#8 then .refused .emptyRegisterList
  else .next ((if rlist.getLsbD rb.toNat then t else writeReg rb.slot (base + listBytes slots) t).charge .loadM)

end Sys2Proof.Machine
end

