-- ==== Sys2Proof/Machine/Dispatch.lean ====
section
/-! DEFINITION. The dispatch: one arm per instruction (R153, R157). -/

namespace Sys2Proof.Machine

/-- The effect of an instruction, run in the state after its fetch: pc is the address of the next instruction in
sequence (R152). -/
def exec (i : Instr) (s : State) : Host.Outcome State Fault Refusal :=
  match i with
  | .andImm f => Sys2Proof.Machine.execAndImm f s
  | .andReg f => Sys2Proof.Machine.execAndReg f s
  | .andRsr f => Sys2Proof.Machine.execAndRsr f s
  | .eorImm f => Sys2Proof.Machine.execEorImm f s
  | .eorReg f => Sys2Proof.Machine.execEorReg f s
  | .eorRsr f => Sys2Proof.Machine.execEorRsr f s
  | .subImm f => Sys2Proof.Machine.execSubImm f s
  | .subReg f => Sys2Proof.Machine.execSubReg f s
  | .subRsr f => Sys2Proof.Machine.execSubRsr f s
  | .rsbImm f => Sys2Proof.Machine.execRsbImm f s
  | .rsbReg f => Sys2Proof.Machine.execRsbReg f s
  | .rsbRsr f => Sys2Proof.Machine.execRsbRsr f s
  | .addImm f => Sys2Proof.Machine.execAddImm f s
  | .addReg f => Sys2Proof.Machine.execAddReg f s
  | .addRsr f => Sys2Proof.Machine.execAddRsr f s
  | .adcImm f => Sys2Proof.Machine.execAdcImm f s
  | .adcReg f => Sys2Proof.Machine.execAdcReg f s
  | .adcRsr f => Sys2Proof.Machine.execAdcRsr f s
  | .sbcImm f => Sys2Proof.Machine.execSbcImm f s
  | .sbcReg f => Sys2Proof.Machine.execSbcReg f s
  | .sbcRsr f => Sys2Proof.Machine.execSbcRsr f s
  | .rscImm f => Sys2Proof.Machine.execRscImm f s
  | .rscReg f => Sys2Proof.Machine.execRscReg f s
  | .rscRsr f => Sys2Proof.Machine.execRscRsr f s
  | .tstImm f => Sys2Proof.Machine.execTstImm f s
  | .tstReg f => Sys2Proof.Machine.execTstReg f s
  | .tstRsr f => Sys2Proof.Machine.execTstRsr f s
  | .teqImm f => Sys2Proof.Machine.execTeqImm f s
  | .teqReg f => Sys2Proof.Machine.execTeqReg f s
  | .teqRsr f => Sys2Proof.Machine.execTeqRsr f s
  | .cmpImm f => Sys2Proof.Machine.execCmpImm f s
  | .cmpReg f => Sys2Proof.Machine.execCmpReg f s
  | .cmpRsr f => Sys2Proof.Machine.execCmpRsr f s
  | .cmnImm f => Sys2Proof.Machine.execCmnImm f s
  | .cmnReg f => Sys2Proof.Machine.execCmnReg f s
  | .cmnRsr f => Sys2Proof.Machine.execCmnRsr f s
  | .orrImm f => Sys2Proof.Machine.execOrrImm f s
  | .orrReg f => Sys2Proof.Machine.execOrrReg f s
  | .orrRsr f => Sys2Proof.Machine.execOrrRsr f s
  | .movImm f => Sys2Proof.Machine.execMovImm f s
  | .movReg f => Sys2Proof.Machine.execMovReg f s
  | .movRsr f => Sys2Proof.Machine.execMovRsr f s
  | .bicImm f => Sys2Proof.Machine.execBicImm f s
  | .bicReg f => Sys2Proof.Machine.execBicReg f s
  | .bicRsr f => Sys2Proof.Machine.execBicRsr f s
  | .mvnImm f => Sys2Proof.Machine.execMvnImm f s
  | .mvnReg f => Sys2Proof.Machine.execMvnReg f s
  | .mvnRsr f => Sys2Proof.Machine.execMvnRsr f s
  | .mrs f => Sys2Proof.Machine.execMrs f s
  | .msrReg f => Sys2Proof.Machine.execMsrReg f s
  | .msrImm f => Sys2Proof.Machine.execMsrImm f s
  | .bx f => Sys2Proof.Machine.execBx f s
  | .mul f => Sys2Proof.Machine.execMul f s
  | .mla f => Sys2Proof.Machine.execMla f s
  | .umull f => Sys2Proof.Machine.execUmull f s
  | .umlal f => Sys2Proof.Machine.execUmlal f s
  | .smull f => Sys2Proof.Machine.execSmull f s
  | .smlal f => Sys2Proof.Machine.execSmlal f s
  | .swp f => Sys2Proof.Machine.execSwp f s
  | .swpb f => Sys2Proof.Machine.execSwpb f s
  | .strhReg f => Sys2Proof.Machine.execStrhReg f s
  | .strhImm f => Sys2Proof.Machine.execStrhImm f s
  | .ldrhReg f => Sys2Proof.Machine.execLdrhReg f s
  | .ldrhImm f => Sys2Proof.Machine.execLdrhImm f s
  | .ldrsbReg f => Sys2Proof.Machine.execLdrsbReg f s
  | .ldrsbImm f => Sys2Proof.Machine.execLdrsbImm f s
  | .ldrshReg f => Sys2Proof.Machine.execLdrshReg f s
  | .ldrshImm f => Sys2Proof.Machine.execLdrshImm f s
  | .ldrImmPre f => Sys2Proof.Machine.execLdrImmPre f s
  | .ldrImmPost f => Sys2Proof.Machine.execLdrImmPost f s
  | .ldrtImm f => Sys2Proof.Machine.execLdrtImm f s
  | .strImmPre f => Sys2Proof.Machine.execStrImmPre f s
  | .strImmPost f => Sys2Proof.Machine.execStrImmPost f s
  | .strtImm f => Sys2Proof.Machine.execStrtImm f s
  | .ldrbImmPre f => Sys2Proof.Machine.execLdrbImmPre f s
  | .ldrbImmPost f => Sys2Proof.Machine.execLdrbImmPost f s
  | .ldrbtImm f => Sys2Proof.Machine.execLdrbtImm f s
  | .strbImmPre f => Sys2Proof.Machine.execStrbImmPre f s
  | .strbImmPost f => Sys2Proof.Machine.execStrbImmPost f s
  | .strbtImm f => Sys2Proof.Machine.execStrbtImm f s
  | .ldrRegPre f => Sys2Proof.Machine.execLdrRegPre f s
  | .ldrRegPost f => Sys2Proof.Machine.execLdrRegPost f s
  | .ldrtReg f => Sys2Proof.Machine.execLdrtReg f s
  | .strRegPre f => Sys2Proof.Machine.execStrRegPre f s
  | .strRegPost f => Sys2Proof.Machine.execStrRegPost f s
  | .strtReg f => Sys2Proof.Machine.execStrtReg f s
  | .ldrbRegPre f => Sys2Proof.Machine.execLdrbRegPre f s
  | .ldrbRegPost f => Sys2Proof.Machine.execLdrbRegPost f s
  | .ldrbtReg f => Sys2Proof.Machine.execLdrbtReg f s
  | .strbRegPre f => Sys2Proof.Machine.execStrbRegPre f s
  | .strbRegPost f => Sys2Proof.Machine.execStrbRegPost f s
  | .strbtReg f => Sys2Proof.Machine.execStrbtReg f s
  | .ldm f => Sys2Proof.Machine.execLdm f s
  | .ldmUser f => Sys2Proof.Machine.execLdmUser f s
  | .ldmReturn f => Sys2Proof.Machine.execLdmReturn f s
  | .stm f => Sys2Proof.Machine.execStm f s
  | .stmUser f => Sys2Proof.Machine.execStmUser f s
  | .b f => Sys2Proof.Machine.execB f s
  | .bl f => Sys2Proof.Machine.execBl f s
  | .stc f => Sys2Proof.Machine.execStc f s
  | .ldc f => Sys2Proof.Machine.execLdc f s
  | .cdp f => Sys2Proof.Machine.execCdp f s
  | .mcr f => Sys2Proof.Machine.execMcr f s
  | .mrc f => Sys2Proof.Machine.execMrc f s
  | .swi f => Sys2Proof.Machine.execSwi f s
  | .und f => Sys2Proof.Machine.execUnd f s
  | .tLslImm offset5 rs rd => Sys2Proof.Machine.execTLslImm offset5 rs rd s
  | .tLsrImm offset5 rs rd => Sys2Proof.Machine.execTLsrImm offset5 rs rd s
  | .tAsrImm offset5 rs rd => Sys2Proof.Machine.execTAsrImm offset5 rs rd s
  | .tAddReg rn rs rd => Sys2Proof.Machine.execTAddReg rn rs rd s
  | .tSubReg rn rs rd => Sys2Proof.Machine.execTSubReg rn rs rd s
  | .tAddImm3 imm3 rs rd => Sys2Proof.Machine.execTAddImm3 imm3 rs rd s
  | .tSubImm3 imm3 rs rd => Sys2Proof.Machine.execTSubImm3 imm3 rs rd s
  | .tMovImm8 rd imm8 => Sys2Proof.Machine.execTMovImm8 rd imm8 s
  | .tCmpImm8 rd imm8 => Sys2Proof.Machine.execTCmpImm8 rd imm8 s
  | .tAddImm8 rd imm8 => Sys2Proof.Machine.execTAddImm8 rd imm8 s
  | .tSubImm8 rd imm8 => Sys2Proof.Machine.execTSubImm8 rd imm8 s
  | .tAnd rs rd => Sys2Proof.Machine.execTAnd rs rd s
  | .tEor rs rd => Sys2Proof.Machine.execTEor rs rd s
  | .tLsl rs rd => Sys2Proof.Machine.execTLsl rs rd s
  | .tLsr rs rd => Sys2Proof.Machine.execTLsr rs rd s
  | .tAsr rs rd => Sys2Proof.Machine.execTAsr rs rd s
  | .tAdc rs rd => Sys2Proof.Machine.execTAdc rs rd s
  | .tSbc rs rd => Sys2Proof.Machine.execTSbc rs rd s
  | .tRor rs rd => Sys2Proof.Machine.execTRor rs rd s
  | .tTst rs rd => Sys2Proof.Machine.execTTst rs rd s
  | .tNeg rs rd => Sys2Proof.Machine.execTNeg rs rd s
  | .tCmp rs rd => Sys2Proof.Machine.execTCmp rs rd s
  | .tCmn rs rd => Sys2Proof.Machine.execTCmn rs rd s
  | .tOrr rs rd => Sys2Proof.Machine.execTOrr rs rd s
  | .tMul rs rd => Sys2Proof.Machine.execTMul rs rd s
  | .tBic rs rd => Sys2Proof.Machine.execTBic rs rd s
  | .tMvn rs rd => Sys2Proof.Machine.execTMvn rs rd s
  | .tAddHi h1 h2 rs rd => Sys2Proof.Machine.execTAddHi h1 h2 rs rd s
  | .tCmpHi h1 h2 rs rd => Sys2Proof.Machine.execTCmpHi h1 h2 rs rd s
  | .tMovHi h1 h2 rs rd => Sys2Proof.Machine.execTMovHi h1 h2 rs rd s
  | .tBx h2 rs sbz => Sys2Proof.Machine.execTBx h2 rs sbz s
  | .tLdrPc rd word8 => Sys2Proof.Machine.execTLdrPc rd word8 s
  | .tStrReg ro rb rd => Sys2Proof.Machine.execTStrReg ro rb rd s
  | .tStrbReg ro rb rd => Sys2Proof.Machine.execTStrbReg ro rb rd s
  | .tLdrReg ro rb rd => Sys2Proof.Machine.execTLdrReg ro rb rd s
  | .tLdrbReg ro rb rd => Sys2Proof.Machine.execTLdrbReg ro rb rd s
  | .tStrhReg ro rb rd => Sys2Proof.Machine.execTStrhReg ro rb rd s
  | .tLdsbReg ro rb rd => Sys2Proof.Machine.execTLdsbReg ro rb rd s
  | .tLdrhReg ro rb rd => Sys2Proof.Machine.execTLdrhReg ro rb rd s
  | .tLdshReg ro rb rd => Sys2Proof.Machine.execTLdshReg ro rb rd s
  | .tStrImm offset5 rb rd => Sys2Proof.Machine.execTStrImm offset5 rb rd s
  | .tLdrImm offset5 rb rd => Sys2Proof.Machine.execTLdrImm offset5 rb rd s
  | .tStrbImm offset5 rb rd => Sys2Proof.Machine.execTStrbImm offset5 rb rd s
  | .tLdrbImm offset5 rb rd => Sys2Proof.Machine.execTLdrbImm offset5 rb rd s
  | .tStrhImm offset5 rb rd => Sys2Proof.Machine.execTStrhImm offset5 rb rd s
  | .tLdrhImm offset5 rb rd => Sys2Proof.Machine.execTLdrhImm offset5 rb rd s
  | .tStrSp rd word8 => Sys2Proof.Machine.execTStrSp rd word8 s
  | .tLdrSp rd word8 => Sys2Proof.Machine.execTLdrSp rd word8 s
  | .tAddPc rd word8 => Sys2Proof.Machine.execTAddPc rd word8 s
  | .tAddSp rd word8 => Sys2Proof.Machine.execTAddSp rd word8 s
  | .tIncSp sword7 => Sys2Proof.Machine.execTIncSp sword7 s
  | .tDecSp sword7 => Sys2Proof.Machine.execTDecSp sword7 s
  | .tPush r rlist => Sys2Proof.Machine.execTPush r rlist s
  | .tPop r rlist => Sys2Proof.Machine.execTPop r rlist s
  | .tStmia rb rlist => Sys2Proof.Machine.execTStmia rb rlist s
  | .tLdmia rb rlist => Sys2Proof.Machine.execTLdmia rb rlist s
  | .tBeq soffset8 => Sys2Proof.Machine.execTBeq soffset8 s
  | .tBne soffset8 => Sys2Proof.Machine.execTBne soffset8 s
  | .tBcs soffset8 => Sys2Proof.Machine.execTBcs soffset8 s
  | .tBcc soffset8 => Sys2Proof.Machine.execTBcc soffset8 s
  | .tBmi soffset8 => Sys2Proof.Machine.execTBmi soffset8 s
  | .tBpl soffset8 => Sys2Proof.Machine.execTBpl soffset8 s
  | .tBvs soffset8 => Sys2Proof.Machine.execTBvs soffset8 s
  | .tBvc soffset8 => Sys2Proof.Machine.execTBvc soffset8 s
  | .tBhi soffset8 => Sys2Proof.Machine.execTBhi soffset8 s
  | .tBls soffset8 => Sys2Proof.Machine.execTBls soffset8 s
  | .tBge soffset8 => Sys2Proof.Machine.execTBge soffset8 s
  | .tBlt soffset8 => Sys2Proof.Machine.execTBlt soffset8 s
  | .tBgt soffset8 => Sys2Proof.Machine.execTBgt soffset8 s
  | .tBle soffset8 => Sys2Proof.Machine.execTBle soffset8 s
  | .tUnd any => Sys2Proof.Machine.execTUnd any s
  | .tSwi value8 => Sys2Proof.Machine.execTSwi value8 s
  | .tB offset11 => Sys2Proof.Machine.execTB offset11 s
  | .tBlFirst offset11 => Sys2Proof.Machine.execTBlFirst offset11 s
  | .tBlSecond offset11 => Sys2Proof.Machine.execTBlSecond offset11 s

end Sys2Proof.Machine
end

