-- ==== Sys2Proof/Machine/Scheduler.lean ====
section
/-! DEFINITION. The cycle scheduler's pieces and the step's frame (R150 to R161, R445 to R464, R508): the fetch, the interrupt
poll, ticking the peripherals, the halted path. -/

namespace Sys2Proof.Machine

/-! ## Fetch (R151, R152) -/

/-- The width of an instruction in a state (R151). -/
def instrWidth (thumb : Bool) : Width := if thumb then .half else .word

/-- The fetch: the step's cost starts with it, and pc is already the next instruction's address (R151, R152). -/
def fetch (s : State) : Word × State :=
  let w := instrWidth s.cpsr.t
  let x := memRead s.pc w { s with stepCost := 0, wrotePc := false }
  (x.1, { x.2 with pc := s.pc + BitVec.ofNat 32 w.bytes })

/-- A word with no row: the Undefined exception, in ARM state only if the condition passes (R154, R156). -/
def takeNoRow (word : Word) (s : State) : Result :=
  if s.cpsr.t then takeUndefined s else guarded (condOf word) takeUndefined s

/-! ## The end of a step (R157, R161, R508) -/

/-- `RefillCost` if the instruction wrote pc, once, for where and in which state it goes on (R157; log 8). -/
def chargeRefill (s : State) : State :=
  if s.wrotePc then { s.addCost (Config.refillCost s.pc s.cpsr.t) with wrotePc := false } else s

/-- `InterruptPending()`: some peripheral drives the line (R41, R503; log 28). -/
def State.interruptPending (s : State) : Bool := s.plat.periphs.any fun p => p.level

/-- Leaving the halted state on an active line (R457, R508). -/
def wake (s : State) : State :=
  if !Config.haltWakeRequiresIClear || !s.cpsr.i then { s with halted := false } else s

/-- `BoundaryCheck()` (R508, R512). -/
def boundaryCheck (s : State) : State :=
  if s.interruptPending then
    let t := wake s
    if t.cpsr.i then t else enterException .irq t.pc t
  else s

/-! ## Tick (R452, R456; log 3, log 25) -/

/-- How far a list of coming events ran: what is left of it and of the cycles, the line, memory, and whether an event of the device's
own is due now. -/
structure EventRun where
  events : List Event
  left : Nat
  level : Bool
  mem : Memory
  due : Bool
  deriving DecidableEq, Repr

/-- The coming events that `n` cycles reach, in order, up to one of the device's own. -/
def runEvents : List Event → Nat → Bool → Memory → EventRun
  | [], n, level, m => ⟨[], n, level, m, false⟩
  | e :: rest, n, level, m =>
    if e.delay ≤ n then
      match e.act with
      | .line b => runEvents rest (n - e.delay) b m
      | .poke a b => runEvents rest (n - e.delay) level (m.write a.toNat b)
      | .own => ⟨rest, n - e.delay, level, m, true⟩
    else ⟨{ e with delay := e.delay - n } :: rest, n, level, m, false⟩

/-- What a device's own event leaves coming is later than it (R456: one event holds all that changes at one time; log 3). -/
def later : List Event → List Event
  | [] => []
  | e :: rest => { e with delay := max e.delay 1 } :: rest

/-- `n` cycles of one peripheral, with at most `k` events of the device's own; such an event may read and change any byte of memory (R77). -/
def Peripheral.run : Nat → Nat → Peripheral → Memory → Peripheral × Memory
  | 0, n, p, m => ({ p with elapsed := p.elapsed + n }, m)
  | k + 1, n, p, m =>
    let x := runEvents p.events n p.level m
    if x.due then
      let now := p.elapsed + (n - x.left)
      let y := Config.device p.memo now x.mem none
      let z := Peripheral.take (fun _ => true) { y with events := later y.events } { p with elapsed := now } x.mem
      Peripheral.run k x.left z.1 z.2
    else ({ p with elapsed := p.elapsed + n, events := x.events, level := x.level }, x.mem)

/-- `Tick(n)` on one peripheral. Its own events are at least a cycle apart, so `n + 1` bounds them. -/
def Peripheral.tick (n : Nat) (p : Peripheral) (m : Memory) : Peripheral × Memory := p.run (n + 1) n m

/-- `Tick(n)` on every peripheral, in list order. -/
def tickAll (n : Nat) : List Peripheral → Memory → List Peripheral × Memory
  | [], m => ([], m)
  | p :: rest, m =>
    let x := p.tick n m
    let y := tickAll n rest x.2
    (x.1 :: y.1, y.2)

/-- A `Tick` round (R452). -/
def State.tick (n : Nat) (s : State) : State :=
  let x := tickAll n s.plat.periphs s.mem
  { s with plat := { s.plat with periphs := x.1 }, mem := x.2 }

/-- The cycles of a finished step leave the budget and are ticked (R40, R452). -/
def account (s : State) : State := { s with budget := s.budget - s.stepCost }.tick s.stepCost

/-- What follows an instruction in its step: the refill, the interrupt poll, then the scheduler's tick (R161, R452). -/
def completeStep (s : State) : State := account (boundaryCheck (chargeRefill s))

/-! ## The halted path (R455) -/

/-- `NextEvent()`: none is the sentinel (R456). -/
def Peripheral.nextEvent (p : Peripheral) : Option Nat :=
  match p.events with
  | [] => none
  | e :: _ => some e.delay

/-- The least of the numbers answered; none if all answers are the sentinel (R455). -/
def leastEvent : List Peripheral → Option Nat
  | [] => none
  | p :: rest =>
    match p.nextEvent, leastEvent rest with
    | some a, some b => some (min a b)
    | some a, none => some a
    | none, r => r

/-- `skip`: at least 1, at most the remaining budget (R455). Outside a quantum the remaining budget counts as 1 (log 18). -/
def skipCycles (next : Option Nat) (budget : Int) : Nat :=
  let remaining := max budget.toNat 1
  match next with
  | none => remaining
  | some m => min (max m 1) remaining

/-- One iteration of the halted path (R455; log 19). -/
def fastForward (s : State) : State :=
  let n := skipCycles (leastEvent s.plat.periphs) s.budget
  boundaryCheck ({ s with stepCost := 0, wrotePc := false, budget := s.budget - n }.tick n)

end Sys2Proof.Machine
end

