-- ==== Sys2Proof/Machine/Execute.lean ====
section
/-! DEFINITION. Decoding and running what was fetched (R153 to R157). -/

namespace Sys2Proof.Machine

/-- The row a fetched value selects in the table of the state (R153). -/
def lookup (thumb : Bool) (word : Word) : Except Reject Instr :=
  decode (if thumb then .thumb (word.setWidth 16) else .arm word)

/-- The instruction of a fetched value runs in the state after the fetch; a value with no row is undefined (R153 to R157). -/
def executeFetched (x : Word × State) : Result :=
  match lookup x.2.cpsr.t x.1 with
  | .ok i => exec i x.2
  | .error _ => takeNoRow x.1 x.2

/-- `Step()` and the tick of its cost (R162, R452). -/
def instructionStep (s : State) : Result := andThen (executeFetched (fetch s)) completeStep

/-- Placing an instruction where the next fetch reads it: its state is the one its length belongs to, pc is aligned for
that state and the core is awake (log 20). -/
def placeInstr (s : State) (nbits w : Nat) : State :=
  let thumb := nbits == 16
  let pc := alignPc thumb s.pc
  let width := instrWidth thumb
  { s with
    pc := pc
    cpsr := { s.cpsr with t := thumb }
    halted := false
    mem := s.mem.storeBytes [] ((byteAddrs pc width).zip (valueBytes (BitVec.ofNat 32 w) width)) }

end Sys2Proof.Machine
end

