-- ==== Sys2Proof/Machine/Step.lean ====
section
/-! DEFINITION. One step of the machine: one iteration of the loop of `Execute` (R451, R462; log 18). -/

namespace Sys2Proof.Machine

/-- One step: an instruction, or the halted path. -/
def step (s : State) : Host.Outcome State Fault Refusal :=
  if s.halted then .next (fastForward s) else instructionStep s

/-- The state with an instruction stored where the next step fetches it (log 20). -/
def State.withFetchWord (s : State) (nbits w : Nat) : State := placeInstr s nbits w

end Sys2Proof.Machine
end

