-- ==== Sys2Proof/Machine/HostPort.lean ====
section
/-! DEFINITION. What the host can do (R13): run a quantum, reset or construct the core with an image, inspect it. -/

namespace Sys2Proof.Machine

/-- The loop of `Execute`, with a bound on its iterations (R460). -/
def runLoop : Nat → State → Result
  | 0, s => .next s
  | k + 1, s =>
    if 0 < s.budget then
      match step s with
      | .next t => runLoop k t
      | .fault e => .fault e
      | .refused e => .refused e
    else .next s

/-- `Execute(target_cycles)`: the budget of the final state is what the call returns, `target_cycles - counter` (R450, R462). -/
def execute (target : Int) (s : State) : Result := runLoop target.toNat { s with budget := target }

/-- Construction with an initial image: a core in the reset state, or failure (R560 to R562; log 29). -/
def State.construct (image : Memory) (plat : Platform) : Option State :=
  if image.wf then some (State.resetWith image plat) else none

/-- Inspection: the register a slot names in a mode, pc as the next fetch address (R526). -/
def State.inspect (s : State) (m : Mode) (i : Reg) : Word := if i = 15#4 then s.pc else s.phys (physReg m i)

/-- Inspection of the CPSR (R526). -/
def State.inspectCpsr (s : State) : Word := s.cpsr.toWord

/-- Inspection of an SPSR (R526). -/
def State.inspectSpsr (s : State) (b : ExcMode) : Word := (s.spsr b).toWord

/-- Inspection of the halted state (R526). -/
def State.inspectHalted (s : State) : Bool := s.halted

end Sys2Proof.Machine
end

