-- ==== Sys2Proof/Safety.lean ====
section
/-! DEFINITION. What the statements call safe: the invariant of every run, the ways a step can stop, and the classes of
instructions the rules speak of. -/

namespace Sys2Proof

/-- The condition field of an ARM instruction; a THUMB instruction has none (R154). -/
def Instr.cond : Instr → Option Cond
  | .andImm f | .andReg f | .andRsr f | .eorImm f | .eorReg f | .eorRsr f | .subImm f | .subReg f | .subRsr f
  | .rsbImm f | .rsbReg f | .rsbRsr f | .addImm f | .addReg f | .addRsr f | .adcImm f | .adcReg f | .adcRsr f
  | .sbcImm f | .sbcReg f | .sbcRsr f | .rscImm f | .rscReg f | .rscRsr f | .tstImm f | .tstReg f | .tstRsr f
  | .teqImm f | .teqReg f | .teqRsr f | .cmpImm f | .cmpReg f | .cmpRsr f | .cmnImm f | .cmnReg f | .cmnRsr f
  | .orrImm f | .orrReg f | .orrRsr f | .movImm f | .movReg f | .movRsr f | .bicImm f | .bicReg f | .bicRsr f
  | .mvnImm f | .mvnReg f | .mvnRsr f | .mrs f | .msrReg f | .msrImm f | .bx f | .mul f | .mla f | .umull f
  | .umlal f | .smull f | .smlal f | .swp f | .swpb f | .strhReg f | .strhImm f | .ldrhReg f | .ldrhImm f
  | .ldrsbReg f | .ldrsbImm f | .ldrshReg f | .ldrshImm f | .ldrImmPre f | .ldrImmPost f | .ldrtImm f | .strImmPre f
  | .strImmPost f | .strtImm f | .ldrbImmPre f | .ldrbImmPost f | .ldrbtImm f | .strbImmPre f | .strbImmPost f
  | .strbtImm f | .ldrRegPre f | .ldrRegPost f | .ldrtReg f | .strRegPre f | .strRegPost f | .strtReg f
  | .ldrbRegPre f | .ldrbRegPost f | .ldrbtReg f | .strbRegPre f | .strbRegPost f | .strbtReg f | .ldm f | .ldmUser f
  | .ldmReturn f | .stm f | .stmUser f | .b f | .bl f | .stc f | .ldc f | .cdp f | .mcr f | .mrc f | .swi f | .und f => some f.cond
  | _ => none

/-- The instruction raises an exception by what it is (R310, R311, R312, R435, R438). -/
def Instr.raises : Instr → Bool
  | .swi _ | .und _ | .stc _ | .ldc _ | .cdp _ | .mcr _ | .mrc _ | .tSwi _ | .tUnd _ => true
  | _ => false

/-- The instruction is a form of return from an exception (R517). -/
def Instr.returns : Instr → Bool
  | .andImm f | .andReg f | .andRsr f | .eorImm f | .eorReg f | .eorRsr f | .subImm f | .subReg f | .subRsr f
  | .rsbImm f | .rsbReg f | .rsbRsr f | .addImm f | .addReg f | .addRsr f | .adcImm f | .adcReg f | .adcRsr f
  | .sbcImm f | .sbcReg f | .sbcRsr f | .rscImm f | .rscReg f | .rscRsr f | .orrImm f | .orrReg f | .orrRsr f
  | .movImm f | .movReg f | .movRsr f | .bicImm f | .bicReg f | .bicRsr f | .mvnImm f | .mvnReg f | .mvnRsr f => f.s && f.rd == 15#4
  | .ldmReturn _ => true
  | _ => false

/-- The instruction is BX, in either state (R302, R368). -/
def Instr.exchanges : Instr → Bool
  | .bx _ | .tBx _ _ _ => true
  | _ => false

/-- The instruction is MSR (R306). -/
def Instr.writesStatus : Instr → Bool
  | .msrReg _ | .msrImm _ => true
  | _ => false

namespace Machine

/-- The invariant of every run (R28, R45): memory is canonical, pc is aligned for the state, the step's own mark is empty.
That the mode is one of the seven and that reserved status bits are zero is in the types (log 22). -/
abbrev State.Inv (s : State) : Prop := s.mem.wf = true ∧ alignPc s.cpsr.t s.pc = s.pc ∧ s.wrotePc = false

/-- A step that goes on. -/
def goesOn : Result → Bool
  | .next _ => true
  | .fault _ => false
  | .refused _ => false

/-- A run is safe where every state it reaches has a next one. -/
def safeFor : Nat → State → Bool
  | 0, _ => true
  | k + 1, s =>
    match step s with
    | .next t => safeFor k t
    | .fault _ => false
    | .refused _ => false

end Machine

end Sys2Proof
end

