-- ==== Sys2Proof/Certificates/Slice0/Obligations.lean ====
section
/-! DEFINITION. The statements for the provers, and the words they are said in: what an instruction ends in, which registers and
bytes it leaves alone, the values the rules give, written from the rules and not from the meanings. In a statement about
`exec` the state is the one after the fetch: `pc` is already the next instruction's address, so `cur` is `pc - 4` in ARM
state and `pc - 2` in THUMB state (R152; log 23). -/

namespace Sys2Proof.Machine.Claims

/-! ## What stays and what is written -/

/-- The instruction completes, and of the state it leaves `P` holds. -/
def Ends (i : Instr) (s : State) (P : State → Prop) : Prop := ∃ t, exec i s = .next t ∧ P t

/-- What slot `r` of the current mode holds, `r` not 15 (R23). -/
def slot (s : State) (r : Reg) : Word := s.phys (physReg s.cpsr.mode r)

/-- The registers of `t`: slot `r` of the mode of `s` holds `val r`, and every register outside that bank is as in `s`. -/
def Registers (s t : State) (val : Reg → Word) : Prop :=
  (∀ r, r ≠ 15#4 → t.phys (physReg s.cpsr.mode r) = val r) ∧
    ∀ p, (∀ r, r ≠ 15#4 → p ≠ physReg s.cpsr.mode r) → t.phys p = s.phys p

/-- The slots as they were, but slot `rd` holds `v`. -/
def written (s : State) (rd : Reg) (v : Word) (r : Reg) : Word := if r = rd then v else slot s r

/-- Where `pc` stands after slot `rd` was written with `v`: a write of slot 15 is a branch (R158). -/
def pcWritten (s : State) (rd : Reg) (v : Word) : Word := if rd = 15#4 then alignPc s.cpsr.t v else s.pc

/-- The step's mark that its rule wrote pc, after an act that wrote it if `wrote`: then, and only then, a refill is owed (R157). -/
def pcMark (s : State) (wrote : Prop) [Decidable wrote] : Bool := s.wrotePc || decide wrote

/-- No SPSR changes. -/
def SavedKept (s t : State) : Prop := ∀ b, t.spsr b = s.spsr b

/-- Every byte of memory reads as before. -/
def MemoryKept (s t : State) : Prop := ∀ a, t.mem.read a = s.mem.read a

/-- No access was made: memory, the interface's memory of the previous access and the devices are as before; and the SPSRs,
the halted bit and the budget stay. -/
def Untouched (s t : State) : Prop :=
  MemoryKept s t ∧ SavedKept s t ∧ t.lastAccess = s.lastAccess ∧ t.plat = s.plat ∧ t.halted = s.halted ∧
    t.budget = s.budget

/-- The access touches no register of a device: plain memory answers it. -/
def Unwatched (s : State) (a : Word) (w : Width) : Prop := watchedBy s.plat.windows a w = false

/-- No device has a register at the byte address `n`. -/
def NoRegister (s : State) (n : Nat) : Prop := ∀ b : Word, b.toNat = n → ownedBy s.plat.windows b = false

/-- The state in which the interface and the devices have answered one read: the read's value stands in its memory (R12, R62, R74). -/
def asked (s : State) (a : Word) (w : Width) : State := (memRead a w s).2

/-- Behind the interface `t` is as `u`: memory, the devices, the interface's memory of the previous access. -/
def Behind (u t : State) : Prop := t.mem = u.mem ∧ t.plat = u.plat ∧ t.lastAccess = u.lastAccess

/-- From `s` to `t` one read was made and nothing stored. Plain memory reads as before, and so does every byte that is no register of a
device. -/
def OneRead (s t : State) (a : Word) (w : Width) : Prop :=
  Behind (asked s a w) t ∧ t.lastAccess = some ⟨a, w⟩ ∧ (Unwatched s a w → MemoryKept s t) ∧
    ∀ n, NoRegister s n → t.mem.read n = s.mem.read n

/-- From `s` to `t` one store was made. In plain memory of canonical form (an invariant) each byte of the stored value, lowest first,
reaches its address through the write mask there (R66, R74); every other byte, but a register of a device that was touched, reads as
before. -/
def Stored (s t : State) (a : Word) (w : Width) (v : Word) : Prop :=
  Behind (memWrite a w v s) t ∧ t.lastAccess = some ⟨a, w⟩ ∧
    (Unwatched s a w → s.mem.wf = true → ∀ c ∈ (byteAddrs a w).zip (valueBytes v w),
      t.mem.read c.1.toNat = maskedByte (maskAt s.plat.writeMasks c.1.toNat) (s.mem.read c.1.toNat) c.2) ∧
    ∀ k : Nat, (∀ b ∈ byteAddrs a w, k ≠ b.toNat) → Unwatched s a w ∨ NoRegister s k → t.mem.read k = s.mem.read k

/-- The platform's known halt writes ask for a halt on this store, and the mode may ask (R83, R454). -/
def platformAsks (s : State) (a : Word) (w : Width) (v : Word) : Bool :=
  s.plat.haltRequest ((byteAddrs a w).zip (valueBytes v w)) && s.cpsr.mode != .usr

/-- The platform or a device asks for a halt on this store, and the mode may ask (R83, R454). -/
def haltAsked (s : State) (a : Word) (w : Width) (v : Word) : Bool :=
  (s.stored a w v).haltAnswer a w v && s.cpsr.mode != .usr

/-- The registers slots 0 to 14 name in a mode: the columns of R23. -/
def bankOf : Mode → List PhysReg
  | .usr => [.r0, .r1, .r2, .r3, .r4, .r5, .r6, .r7, .r8usr, .r9usr, .r10usr, .r11usr, .r12usr, .r13usr, .r14usr]
  | .sys => [.r0, .r1, .r2, .r3, .r4, .r5, .r6, .r7, .r8usr, .r9usr, .r10usr, .r11usr, .r12usr, .r13usr, .r14usr]
  | .fiq => [.r0, .r1, .r2, .r3, .r4, .r5, .r6, .r7, .r8fiq, .r9fiq, .r10fiq, .r11fiq, .r12fiq, .r13fiq, .r14fiq]
  | .irq => [.r0, .r1, .r2, .r3, .r4, .r5, .r6, .r7, .r8usr, .r9usr, .r10usr, .r11usr, .r12usr, .r13irq, .r14irq]
  | .svc => [.r0, .r1, .r2, .r3, .r4, .r5, .r6, .r7, .r8usr, .r9usr, .r10usr, .r11usr, .r12usr, .r13svc, .r14svc]
  | .abt => [.r0, .r1, .r2, .r3, .r4, .r5, .r6, .r7, .r8usr, .r9usr, .r10usr, .r11usr, .r12usr, .r13abt, .r14abt]
  | .und => [.r0, .r1, .r2, .r3, .r4, .r5, .r6, .r7, .r8usr, .r9usr, .r10usr, .r11usr, .r12usr, .r13und, .r14und]

/-! ## Arithmetic and logic -/

/-- An arithmetic operation as the rules give it: its exact value from the operands read as integers and the old C flag, and
whether C means "no borrow" (R166). -/
structure Sum where
  exact : Int → Int → Int → Int
  subtracts : Bool

/-- `a + b`. -/
def plus : Sum := ⟨fun a b _ => a + b, false⟩

/-- `a + b + C`. -/
def plusC : Sum := ⟨fun a b c => a + b + c, false⟩

/-- `a - b`. -/
def minus : Sum := ⟨fun a b _ => a - b, true⟩

/-- `a - b - NOT C`. -/
def minusC : Sum := ⟨fun a b c => a - b - (1 - c), true⟩

/-- `b - a`. -/
def reversed : Sum := ⟨fun a b _ => b - a, true⟩

/-- `b - a - NOT C`. -/
def reversedC : Sum := ⟨fun a b c => b - a - (1 - c), true⟩

/-- The 32-bit result: the exact value modulo 2^32. -/
def Sum.result (o : Sum) (p : Cpsr) (a b : Word) : Word := BitVec.ofInt 32 (o.exact a.toNat b.toNat p.c.toNat)

/-- The flags: C from the exact value of the operands read as unsigned, V from that of the operands read as signed. -/
def Sum.flags (o : Sum) (p : Cpsr) (a b : Word) : Cpsr :=
  let u := o.exact a.toNat b.toNat p.c.toNat
  let x := o.exact a.toInt b.toInt p.c.toNat
  { p with
    n := (o.result p a b).msb
    z := decide (o.result p a b = 0#32)
    c := if o.subtracts then decide (0 ≤ u) else decide (2 ^ 32 ≤ u)
    v := decide (x < -2 ^ 31 ∨ 2 ^ 31 ≤ x) }

/-- N and Z from a result, C as given, V as it was (R167). -/
def logicalFlags (p : Cpsr) (r : Word) (c : Bool) : Cpsr :=
  { p with n := r.msb, z := decide (r = 0#32), c := c }

/-- The instruction gives slot `rd` the value `v` and the CPSR the value `p`, costs `cycles` (log 33), owes a refill if `rd` is 15
(R157), and changes nothing else. -/
def Computes (i : Instr) (s : State) (rd : Option Reg) (v : Word) (p : Cpsr) (cycles : Nat) : Prop :=
  Ends i s fun t =>
    (match rd with
      | some d => Registers s t (written s d v) ∧ t.pc = pcWritten s d v ∧ t.wrotePc = pcMark s (d = 15#4)
      | none => Registers s t (slot s) ∧ t.pc = s.pc ∧ t.wrotePc = s.wrotePc) ∧
      t.cpsr = p ∧ Untouched s t ∧ t.stepCost = s.stepCost + cycles

/-- Two operands, an operation, the old CPSR: what an ARM data-processing instruction computes. -/
structure DpRow where
  imm : DpImm → Instr
  reg : DpReg → Instr
  rsr : DpRsr → Instr
  op : Word → Word → Word

/-- AND, EOR, ORR, MOV, BIC, MVN (R210, R211, R222 to R225). -/
def logicalRows : List DpRow :=
  [⟨.andImm, .andReg, .andRsr, fun a b => a &&& b⟩, ⟨.eorImm, .eorReg, .eorRsr, fun a b => a ^^^ b⟩,
    ⟨.orrImm, .orrReg, .orrRsr, fun a b => a ||| b⟩, ⟨.movImm, .movReg, .movRsr, fun _ b => b⟩,
    ⟨.bicImm, .bicReg, .bicRsr, fun a b => a &&& ~~~b⟩, ⟨.mvnImm, .mvnReg, .mvnRsr, fun _ b => ~~~b⟩]

/-- As `DpRow`, for the arithmetic operations. -/
structure SumRow where
  imm : DpImm → Instr
  reg : DpReg → Instr
  rsr : DpRsr → Instr
  op : Sum

/-- SUB, RSB, ADD, ADC, SBC, RSC (R212 to R217). -/
def sumRows : List SumRow :=
  [⟨.subImm, .subReg, .subRsr, minus⟩, ⟨.rsbImm, .rsbReg, .rsbRsr, reversed⟩, ⟨.addImm, .addReg, .addRsr, plus⟩,
    ⟨.adcImm, .adcReg, .adcRsr, plusC⟩, ⟨.sbcImm, .sbcReg, .sbcRsr, minusC⟩, ⟨.rscImm, .rscReg, .rscRsr, reversedC⟩]

/-- The second operand of each form, with the shifter's carry (R200). -/
def operandImm (f : DpImm) (s : State) : Word × Bool := immOperand f.rotate f.imm8 s.cpsr.c

/-- The second operand of a register shifted by an immediate. -/
def operandReg (f : DpReg) (s : State) : Word × Bool := shiftImm f.type f.shiftImm (readArm f.rm s) s.cpsr.c

/-- The second operand of a register shifted by a register: register 15 reads `cur + 12` (R202). -/
def operandRsr (f : DpRsr) (s : State) : Word × Bool :=
  shiftReg f.type (lowByte (readArm12 f.rs s)) (readArm12 f.rm s) s.cpsr.c

/-- The instructions with a destination, where it is slot 15: condition, S bit, and the value computed (R203). -/
def pcForm (s : State) : Instr → Option (Cond × Bool × Word)
  | .andImm f => if f.rd = 15#4 then some (f.cond, f.s, (resultDpImm f aluAnd s).r) else none
  | .eorImm f => if f.rd = 15#4 then some (f.cond, f.s, (resultDpImm f aluEor s).r) else none
  | .subImm f => if f.rd = 15#4 then some (f.cond, f.s, (resultDpImm f aluSub s).r) else none
  | .rsbImm f => if f.rd = 15#4 then some (f.cond, f.s, (resultDpImm f aluRsb s).r) else none
  | .addImm f => if f.rd = 15#4 then some (f.cond, f.s, (resultDpImm f aluAdd s).r) else none
  | .adcImm f => if f.rd = 15#4 then some (f.cond, f.s, (resultDpImm f aluAdc s).r) else none
  | .sbcImm f => if f.rd = 15#4 then some (f.cond, f.s, (resultDpImm f aluSbc s).r) else none
  | .rscImm f => if f.rd = 15#4 then some (f.cond, f.s, (resultDpImm f aluRsc s).r) else none
  | .orrImm f => if f.rd = 15#4 then some (f.cond, f.s, (resultDpImm f aluOrr s).r) else none
  | .movImm f => if f.rd = 15#4 then some (f.cond, f.s, (resultDpImm f aluMov s).r) else none
  | .bicImm f => if f.rd = 15#4 then some (f.cond, f.s, (resultDpImm f aluBic s).r) else none
  | .mvnImm f => if f.rd = 15#4 then some (f.cond, f.s, (resultDpImm f aluMvn s).r) else none
  | .andReg f => if f.rd = 15#4 then some (f.cond, f.s, (resultDpReg f aluAnd s).r) else none
  | .eorReg f => if f.rd = 15#4 then some (f.cond, f.s, (resultDpReg f aluEor s).r) else none
  | .subReg f => if f.rd = 15#4 then some (f.cond, f.s, (resultDpReg f aluSub s).r) else none
  | .rsbReg f => if f.rd = 15#4 then some (f.cond, f.s, (resultDpReg f aluRsb s).r) else none
  | .addReg f => if f.rd = 15#4 then some (f.cond, f.s, (resultDpReg f aluAdd s).r) else none
  | .adcReg f => if f.rd = 15#4 then some (f.cond, f.s, (resultDpReg f aluAdc s).r) else none
  | .sbcReg f => if f.rd = 15#4 then some (f.cond, f.s, (resultDpReg f aluSbc s).r) else none
  | .rscReg f => if f.rd = 15#4 then some (f.cond, f.s, (resultDpReg f aluRsc s).r) else none
  | .orrReg f => if f.rd = 15#4 then some (f.cond, f.s, (resultDpReg f aluOrr s).r) else none
  | .movReg f => if f.rd = 15#4 then some (f.cond, f.s, (resultDpReg f aluMov s).r) else none
  | .bicReg f => if f.rd = 15#4 then some (f.cond, f.s, (resultDpReg f aluBic s).r) else none
  | .mvnReg f => if f.rd = 15#4 then some (f.cond, f.s, (resultDpReg f aluMvn s).r) else none
  | .andRsr f => if f.rd = 15#4 then some (f.cond, f.s, (resultDpRsr f aluAnd s).r) else none
  | .eorRsr f => if f.rd = 15#4 then some (f.cond, f.s, (resultDpRsr f aluEor s).r) else none
  | .subRsr f => if f.rd = 15#4 then some (f.cond, f.s, (resultDpRsr f aluSub s).r) else none
  | .rsbRsr f => if f.rd = 15#4 then some (f.cond, f.s, (resultDpRsr f aluRsb s).r) else none
  | .addRsr f => if f.rd = 15#4 then some (f.cond, f.s, (resultDpRsr f aluAdd s).r) else none
  | .adcRsr f => if f.rd = 15#4 then some (f.cond, f.s, (resultDpRsr f aluAdc s).r) else none
  | .sbcRsr f => if f.rd = 15#4 then some (f.cond, f.s, (resultDpRsr f aluSbc s).r) else none
  | .rscRsr f => if f.rd = 15#4 then some (f.cond, f.s, (resultDpRsr f aluRsc s).r) else none
  | .orrRsr f => if f.rd = 15#4 then some (f.cond, f.s, (resultDpRsr f aluOrr s).r) else none
  | .movRsr f => if f.rd = 15#4 then some (f.cond, f.s, (resultDpRsr f aluMov s).r) else none
  | .bicRsr f => if f.rd = 15#4 then some (f.cond, f.s, (resultDpRsr f aluBic s).r) else none
  | .mvnRsr f => if f.rd = 15#4 then some (f.cond, f.s, (resultDpRsr f aluMvn s).r) else none
  | _ => none

/-- THUMB arithmetic: destination (none for a compare), operands, operation (R335 to R338, R341 to R343, R350, R351, R354 to R356). -/
def thumbSum (s : State) : Instr → Option (Option LowReg × Word × Word × Sum)
  | .tAddReg rn rs rd => some (some rd, slot s rs.slot, slot s rn.slot, plus)
  | .tSubReg rn rs rd => some (some rd, slot s rs.slot, slot s rn.slot, minus)
  | .tAddImm3 imm3 rs rd => some (some rd, slot s rs.slot, imm3.setWidth 32, plus)
  | .tSubImm3 imm3 rs rd => some (some rd, slot s rs.slot, imm3.setWidth 32, minus)
  | .tCmpImm8 rd imm8 => some (none, slot s rd.slot, imm8.setWidth 32, minus)
  | .tAddImm8 rd imm8 => some (some rd, slot s rd.slot, imm8.setWidth 32, plus)
  | .tSubImm8 rd imm8 => some (some rd, slot s rd.slot, imm8.setWidth 32, minus)
  | .tAdc rs rd => some (some rd, slot s rd.slot, slot s rs.slot, plusC)
  | .tSbc rs rd => some (some rd, slot s rd.slot, slot s rs.slot, minusC)
  | .tNeg rs rd => some (some rd, 0#32, slot s rs.slot, minus)
  | .tCmp rs rd => some (none, slot s rd.slot, slot s rs.slot, minus)
  | .tCmn rs rd => some (none, slot s rd.slot, slot s rs.slot, plus)
  | _ => none

/-- THUMB shifts, moves and logic: destination (none for TST), result, C afterwards, internal cycles (R330 to R332, R340,
R345 to R349, R352, R353, R357, R359, R360). -/
def thumbLogic (s : State) : Instr → Option (Option LowReg × (Word × Bool) × Nat)
  | .tLslImm n rs rd => some (some rd, shiftImm .lsl n (slot s rs.slot) s.cpsr.c, 0)
  | .tLsrImm n rs rd => some (some rd, shiftImm .lsr n (slot s rs.slot) s.cpsr.c, 0)
  | .tAsrImm n rs rd => some (some rd, shiftImm .asr n (slot s rs.slot) s.cpsr.c, 0)
  | .tMovImm8 rd imm8 => some (some rd, (imm8.setWidth 32, s.cpsr.c), 0)
  | .tAnd rs rd => some (some rd, (slot s rd.slot &&& slot s rs.slot, s.cpsr.c), 0)
  | .tEor rs rd => some (some rd, (slot s rd.slot ^^^ slot s rs.slot, s.cpsr.c), 0)
  | .tLsl rs rd => some (some rd, shiftReg .lsl (lowByte (slot s rs.slot)) (slot s rd.slot) s.cpsr.c, 1)
  | .tLsr rs rd => some (some rd, shiftReg .lsr (lowByte (slot s rs.slot)) (slot s rd.slot) s.cpsr.c, 1)
  | .tAsr rs rd => some (some rd, shiftReg .asr (lowByte (slot s rs.slot)) (slot s rd.slot) s.cpsr.c, 1)
  | .tRor rs rd => some (some rd, shiftReg .ror (lowByte (slot s rs.slot)) (slot s rd.slot) s.cpsr.c, 1)
  | .tTst rs rd => some (none, (slot s rd.slot &&& slot s rs.slot, s.cpsr.c), 0)
  | .tOrr rs rd => some (some rd, (slot s rd.slot ||| slot s rs.slot, s.cpsr.c), 0)
  | .tBic rs rd => some (some rd, (slot s rd.slot &&& ~~~slot s rs.slot, s.cpsr.c), 0)
  | .tMvn rs rd => some (some rd, (~~~slot s rs.slot, s.cpsr.c), 0)
  | _ => none

/-- The multiplier count from the value of `Rs` read as signed: how many bytes it fits in (R248). -/
def signedCount (v : Word) : Nat :=
  if -2 ^ 8 ≤ v.toInt ∧ v.toInt < 2 ^ 8 then 1
  else if -2 ^ 16 ≤ v.toInt ∧ v.toInt < 2 ^ 16 then 2
  else if -2 ^ 24 ≤ v.toInt ∧ v.toInt < 2 ^ 24 then 3
  else 4

/-- The multiplier count from the value of `Rs` read as unsigned (R248). -/
def unsignedCount (v : Word) : Nat :=
  if v.toNat < 2 ^ 8 then 1 else if v.toNat < 2 ^ 16 then 2 else if v.toNat < 2 ^ 24 then 3 else 4

/-- The slots after a long multiply: `RdLo` first, then `RdHi` (R242; where they are one register, log 15). -/
def twoWritten (s : State) (f : MullFields) (p : BitVec 64) (r : Reg) : Word :=
  if r = f.rdHi then p.extractLsb' 32 32 else if r = f.rdLo then p.extractLsb' 0 32 else slot s r

/-! ## Loads and stores -/

/-- A byte of memory. -/
def byteAt (m : Memory) (a : Word) : Byte := m.read a.toNat

/-- The word whose bytes, lowest first, stand at `a` to `a + 3` (R66). -/
def wordAt (m : Memory) (a : Word) : Word := byteAt m (a + 3#32) ++ byteAt m (a + 2#32) ++ byteAt m (a + 1#32) ++ byteAt m a

/-- What a load gives, byte by byte: byte `j` of a word is the one at `(ea + j) mod 4` in the aligned word; a halfword at an
odd address has the byte there lowest and the byte before it highest; a signed halfword at an odd address is the byte
there (R68, R69, R263, R274). -/
def loadedValue (m : Memory) (k : LoadKind) (ea : Word) : Word :=
  match k with
  | .word =>
    let byte (j : Nat) : Byte := byteAt m (BitVec.ofNat 32 (ea.toNat / 4 * 4 + (ea.toNat + j) % 4))
    byte 3 ++ byte 2 ++ byte 1 ++ byte 0
  | .byte => 0#24 ++ byteAt m ea
  | .half =>
    if ea.toNat % 2 = 1 then byteAt m (ea - 1#32) ++ 0#16 ++ byteAt m ea
    else 0#16 ++ byteAt m (ea + 1#32) ++ byteAt m ea
  | .signedByte => (byteAt m ea).signExtend 32
  | .signedHalf =>
    if ea.toNat % 2 = 1 then (byteAt m ea).signExtend 32 else (byteAt m (ea + 1#32) ++ byteAt m ea).signExtend 32

/-- The one access a load makes (R68, R69, R72). -/
def loadAccess (k : LoadKind) (ea : Word) : Access :=
  match k with
  | .word => ⟨ea &&& ~~~3#32, .word⟩
  | .byte => ⟨ea, .byte⟩
  | .half => ⟨ea &&& ~~~1#32, .half⟩
  | .signedByte => ⟨ea, .byte⟩
  | .signedHalf => if ea.toNat % 2 = 1 then ⟨ea, .byte⟩ else ⟨ea, .half⟩

/-- The value a load gives: from what stands in memory when the devices have answered its access. -/
def loaded (s : State) (k : LoadKind) (ea : Word) : Word :=
  loadedValue (asked s (loadAccess k ea).addr (loadAccess k ea).width).mem k ea

/-- A form of a single transfer: condition, address computation, base and data register. -/
structure Form where
  cond : Cond
  addr : State → Addressing
  rn : Reg
  rd : Reg

/-- The ARM loads (R261, R263, R266 to R268, R273 to R275), with the address function their meanings use. -/
def armLoad : Instr → Option (LoadKind × Form)
  | .ldrImmPre f => some (.word, ⟨f.cond, addrSdtImmPre f, f.rn, f.rd⟩)
  | .ldrImmPost f => some (.word, ⟨f.cond, addrSdtImmPost f, f.rn, f.rd⟩)
  | .ldrtImm f => some (.word, ⟨f.cond, addrSdtImmPost f, f.rn, f.rd⟩)
  | .ldrbImmPre f => some (.byte, ⟨f.cond, addrSdtImmPre f, f.rn, f.rd⟩)
  | .ldrbImmPost f => some (.byte, ⟨f.cond, addrSdtImmPost f, f.rn, f.rd⟩)
  | .ldrbtImm f => some (.byte, ⟨f.cond, addrSdtImmPost f, f.rn, f.rd⟩)
  | .ldrRegPre f => some (.word, ⟨f.cond, addrSdtRegPre f, f.rn, f.rd⟩)
  | .ldrRegPost f => some (.word, ⟨f.cond, addrSdtRegPost f, f.rn, f.rd⟩)
  | .ldrtReg f => some (.word, ⟨f.cond, addrSdtRegPost f, f.rn, f.rd⟩)
  | .ldrbRegPre f => some (.byte, ⟨f.cond, addrSdtRegPre f, f.rn, f.rd⟩)
  | .ldrbRegPost f => some (.byte, ⟨f.cond, addrSdtRegPost f, f.rn, f.rd⟩)
  | .ldrbtReg f => some (.byte, ⟨f.cond, addrSdtRegPost f, f.rn, f.rd⟩)
  | .ldrhReg f => some (.half, ⟨f.cond, addrHsReg f, f.rn, f.rd⟩)
  | .ldrhImm f => some (.half, ⟨f.cond, addrHsImm f, f.rn, f.rd⟩)
  | .ldrsbReg f => some (.signedByte, ⟨f.cond, addrHsReg f, f.rn, f.rd⟩)
  | .ldrsbImm f => some (.signedByte, ⟨f.cond, addrHsImm f, f.rn, f.rd⟩)
  | .ldrshReg f => some (.signedHalf, ⟨f.cond, addrHsReg f, f.rn, f.rd⟩)
  | .ldrshImm f => some (.signedHalf, ⟨f.cond, addrHsImm f, f.rn, f.rd⟩)
  | _ => none

/-- The ARM stores (R262, R264, R266, R269, R270, R272), with the address function their meanings use. -/
def armStore : Instr → Option (Width × Form)
  | .strImmPre f => some (.word, ⟨f.cond, addrSdtImmPre f, f.rn, f.rd⟩)
  | .strImmPost f => some (.word, ⟨f.cond, addrSdtImmPost f, f.rn, f.rd⟩)
  | .strtImm f => some (.word, ⟨f.cond, addrSdtImmPost f, f.rn, f.rd⟩)
  | .strbImmPre f => some (.byte, ⟨f.cond, addrSdtImmPre f, f.rn, f.rd⟩)
  | .strbImmPost f => some (.byte, ⟨f.cond, addrSdtImmPost f, f.rn, f.rd⟩)
  | .strbtImm f => some (.byte, ⟨f.cond, addrSdtImmPost f, f.rn, f.rd⟩)
  | .strRegPre f => some (.word, ⟨f.cond, addrSdtRegPre f, f.rn, f.rd⟩)
  | .strRegPost f => some (.word, ⟨f.cond, addrSdtRegPost f, f.rn, f.rd⟩)
  | .strtReg f => some (.word, ⟨f.cond, addrSdtRegPost f, f.rn, f.rd⟩)
  | .strbRegPre f => some (.byte, ⟨f.cond, addrSdtRegPre f, f.rn, f.rd⟩)
  | .strbRegPost f => some (.byte, ⟨f.cond, addrSdtRegPost f, f.rn, f.rd⟩)
  | .strbtReg f => some (.byte, ⟨f.cond, addrSdtRegPost f, f.rn, f.rd⟩)
  | .strhReg f => some (.half, ⟨f.cond, addrHsReg f, f.rn, f.rd⟩)
  | .strhImm f => some (.half, ⟨f.cond, addrHsImm f, f.rn, f.rd⟩)
  | _ => none

/-- The THUMB loads: kind, effective address, destination (R385, R390, R393, R394, R396 to R398, R400, R402, R404, R406). -/
def thumbLoadForm (s : State) : Instr → Option (LoadKind × Word × LowReg)
  | .tLdrPc rd word8 => some (.word, ((s.pc + 2#32) &&& ~~~2#32) + word8.setWidth 32 * 4#32, rd)
  | .tLdrReg ro rb rd => some (.word, slot s rb.slot + slot s ro.slot, rd)
  | .tLdrbReg ro rb rd => some (.byte, slot s rb.slot + slot s ro.slot, rd)
  | .tLdsbReg ro rb rd => some (.signedByte, slot s rb.slot + slot s ro.slot, rd)
  | .tLdrhReg ro rb rd => some (.half, slot s rb.slot + slot s ro.slot, rd)
  | .tLdshReg ro rb rd => some (.signedHalf, slot s rb.slot + slot s ro.slot, rd)
  | .tLdrImm offset5 rb rd => some (.word, slot s rb.slot + offset5.setWidth 32 * 4#32, rd)
  | .tLdrbImm offset5 rb rd => some (.byte, slot s rb.slot + offset5.setWidth 32, rd)
  | .tLdrhImm offset5 rb rd => some (.half, slot s rb.slot + offset5.setWidth 32 * 2#32, rd)
  | .tLdrSp rd word8 => some (.word, slot s 13#4 + word8.setWidth 32 * 4#32, rd)
  | _ => none

/-- The THUMB stores: width, effective address, source (R391, R392, R395, R399, R401, R403, R405). -/
def thumbStoreForm (s : State) : Instr → Option (Width × Word × LowReg)
  | .tStrReg ro rb rd => some (.word, regOffset ro rb s, rd)
  | .tStrbReg ro rb rd => some (.byte, regOffset ro rb s, rd)
  | .tStrhReg ro rb rd => some (.half, regOffset ro rb s, rd)
  | .tStrImm offset5 rb rd => some (.word, low rb s + scaled4 offset5, rd)
  | .tStrbImm offset5 rb rd => some (.byte, low rb s + offset5.setWidth 32, rd)
  | .tStrhImm offset5 rb rd => some (.half, low rb s + scaled2 offset5, rd)
  | .tStrSp rd word8 => some (.word, readThumb 13#4 s + scaled4 word8, rd)
  | _ => none

/-- How many slots of a list are below slot `k` (R281). -/
def rank (list : BitVec 16) (k : Nat) : Nat := ((List.range k).filter fun j => list.getLsbD j).length

/-- The number of slots of a list (R280). -/
def size (list : BitVec 16) : Nat := rank list 16

/-- Slot `r` is in the list. -/
def inSlots (list : BitVec 16) (r : Reg) : Bool := list.getLsbD r.toNat

/-- `start` of R280, by the values of U and P. -/
def startOf (p u : Bool) (base : Word) (n : Nat) : Word :=
  match u, p with
  | true, false => base
  | true, true => base + 4#32
  | false, false => base - BitVec.ofNat 32 (4 * n) + 4#32
  | false, true => base - BitVec.ofNat 32 (4 * n)

/-- `wb` of R280. -/
def backOf (u : Bool) (base : Word) (n : Nat) : Word :=
  if u then base + BitVec.ofNat 32 (4 * n) else base - BitVec.ofNat 32 (4 * n)

/-- The address at which slot `r` of a list is transferred: 4 bytes for each slot below it, low bits dropped (R71, R281). -/
def slotAddr (list : BitVec 16) (start : Word) (r : Reg) : Word :=
  (start + BitVec.ofNat 32 (4 * rank list r.toNat)) &&& ~~~3#32

/-- No word of the block transfer touches a register of a device. -/
def UnwatchedBlock (s : State) (list : BitVec 16) (start : Word) : Prop :=
  ∀ r, inSlots list r = true → Unwatched s (slotAddr list start r) .word

/-- The listed slots below `k`, ascending. -/
def slotsBelow (list : BitVec 16) (k : Nat) : List Reg :=
  ((List.range k).filter fun j => list.getLsbD j).map fun j => BitVec.ofNat 4 j

/-- The state in which the words of the listed slots below `k` were read, one after the other (R72, R281). -/
def readBelow (s : State) (list : BitVec 16) (start : Word) (k : Nat) : State :=
  (slotsBelow list k).foldl (fun u r => asked u (slotAddr list start r) .word) s

/-- What a block load gives slot `r`: the word that stands at its address when its own access was answered. -/
def loadedSlot (s : State) (list : BitVec 16) (start : Word) (r : Reg) : Word :=
  wordAt (readBelow s list start (r.toNat + 1)).mem (slotAddr list start r)

/-- From `s` to `t` the words of a block load were read and nothing stored, at the accesses' cost and one internal cycle (log 33).
From plain memory each slot's word is the one at its address; no byte changes but registers of devices that were touched. -/
def ReadBlock (s t : State) (list : BitVec 16) (start : Word) : Prop :=
  Behind (readBelow s list start 16) t ∧ t.stepCost = (readBelow s list start 16).stepCost + 1 ∧
    (UnwatchedBlock s list start → MemoryKept s t ∧
      ∀ r, inSlots list r = true → loadedSlot s list start r = wordAt s.mem (slotAddr list start r)) ∧
    ∀ n, NoRegister s n → t.mem.read n = s.mem.read n

/-- The state in which the listed slots' words were stored, one after the other (R72, R281). -/
def writeBlock (s : State) (list : BitVec 16) (start : Word) (val : Reg → Word) : State :=
  (slotsBelow list 16).foldl (fun u r => memWrite (slotAddr list start r) .word (val r) u) s

/-- From `s` to `t` the words of a block transfer were stored, at the accesses' cost (R281, R83; log 33). In plain memory of
canonical form (an invariant) each slot's word stands at its address, and the halted bit is set exactly when some store asks for it;
every other byte, but registers of devices that were touched, reads as before. -/
def StoredBlock (s t : State) (list : BitVec 16) (start : Word) (val : Reg → Word) : Prop :=
  Behind (writeBlock s list start val) t ∧ t.halted = (writeBlock s list start val).halted ∧
    t.stepCost = (writeBlock s list start val).stepCost ∧
    (UnwatchedBlock s list start →
      (s.mem.wf = true → ∀ r, inSlots list r = true →
        ∀ c ∈ (byteAddrs (slotAddr list start r) .word).zip (valueBytes (val r) .word),
          t.mem.read c.1.toNat = maskedByte (maskAt s.plat.writeMasks c.1.toNat) (s.mem.read c.1.toNat) c.2) ∧
      (t.halted = true ↔ s.halted = true ∨
        ∃ r, inSlots list r = true ∧ platformAsks s (slotAddr list start r) .word (val r) = true)) ∧
    ∀ k : Nat, (∀ r, inSlots list r = true → ∀ b ∈ byteAddrs (slotAddr list start r) .word, k ≠ b.toNat) →
      UnwatchedBlock s list start ∨ NoRegister s k → t.mem.read k = s.mem.read k

/-- The list of PUSH: `rlist` and r14 (R410). -/
def pushList (r : Bool) (rlist : BitVec 8) : BitVec 16 := rlist.setWidth 16 ||| (if r then 0x4000#16 else 0#16)

/-- The list of POP: `rlist` and pc (R411). -/
def popList (r : Bool) (rlist : BitVec 8) : BitVec 16 := rlist.setWidth 16 ||| (if r then 0x8000#16 else 0#16)

/-! ## Exceptions -/

/-- What R501 and R505 give a class that is entered by `EnterException`: vector, mode, whether F is set, what is added to `ret` for the
link. Reset is no entry of R505 (R513), and R505 gives the abort classes no link value (R515; log 32). -/
def classRow : ExcClass → Option (Word × ExcMode × Bool × Word)
  | .undefined => some (0x04#32, .und, false, 0#32)
  | .swi => some (0x08#32, .svc, false, 0#32)
  | .irq => some (0x18#32, .irq, false, 4#32)
  | .fiq => some (0x1C#32, .fiq, true, 4#32)
  | .reset | .prefetchAbort | .dataAbort => none

/-- `t` is `s` after an entry into mode `b` (R505): the CPSR's mode, T, I and F, the SPSR and r14 of `b`, and pc; nothing else
the program can see. -/
def Enters (s t : State) (b : ExcMode) (vector ret link : Word) (setF : Bool) : Prop :=
  t.cpsr = { s.cpsr with mode := b.mode, t := false, i := true, f := s.cpsr.f || setF } ∧
    t.spsr b = { n := s.cpsr.n, z := s.cpsr.z, c := s.cpsr.c, v := s.cpsr.v, i := s.cpsr.i, f := s.cpsr.f, t := s.cpsr.t,
                 m := s.cpsr.mode.bits } ∧
    (∀ b', b' ≠ b → t.spsr b' = s.spsr b') ∧
    t.phys (physReg b.mode 14#4) = ret + link ∧
    (∀ p, p ≠ physReg b.mode 14#4 → t.phys p = s.phys p) ∧
    t.pc = vector ∧ MemoryKept s t ∧ t.lastAccess = s.lastAccess ∧ t.halted = s.halted ∧ t.budget = s.budget

/-- The instructions that raise the software interrupt, and those that raise the undefined-instruction exception, with their
condition (R310 to R317, R435, R438). -/
def raised : Instr → Option (Cond × ExcClass)
  | .swi f => some (f.cond, .swi)
  | .und f => some (f.cond, .undefined)
  | .stc f => some (f.cond, .undefined)
  | .ldc f => some (f.cond, .undefined)
  | .cdp f => some (f.cond, .undefined)
  | .mcr f => some (f.cond, .undefined)
  | .mrc f => some (f.cond, .undefined)
  | .tSwi _ => some (.al, .swi)
  | .tUnd _ => some (.al, .undefined)
  | _ => none

/-- The internal cycles of ARM data processing: one where the shift amount is in a register (R575; log 33). -/
def dpCycles : Instr → Nat
  | .andRsr _ | .eorRsr _ | .subRsr _ | .rsbRsr _ | .addRsr _ | .adcRsr _ | .sbcRsr _ | .rscRsr _ | .orrRsr _ | .movRsr _
  | .bicRsr _ | .mvnRsr _ => 1
  | _ => 0

/-- The THUMB conditional branches (R430). -/
def thumbBranch : Instr → Option (Cond × BitVec 8)
  | .tBeq o => some (.eq, o)
  | .tBne o => some (.ne, o)
  | .tBcs o => some (.cs, o)
  | .tBcc o => some (.cc, o)
  | .tBmi o => some (.mi, o)
  | .tBpl o => some (.pl, o)
  | .tBvs o => some (.vs, o)
  | .tBvc o => some (.vc, o)
  | .tBhi o => some (.hi, o)
  | .tBls o => some (.ls, o)
  | .tBge o => some (.ge, o)
  | .tBlt o => some (.lt, o)
  | .tBgt o => some (.gt, o)
  | .tBle o => some (.le, o)
  | _ => none

/-- A branch: pc takes the target, the step owes a refill, and nothing else changes (R157, R158; log 33). -/
def Branches (i : Instr) (s : State) (target : Word) : Prop :=
  Ends i s fun t =>
    t.pc = target ∧ t.wrotePc = true ∧ Registers s t (slot s) ∧ t.cpsr = s.cpsr ∧ Untouched s t ∧ t.stepCost = s.stepCost

/-- The instructions that may write N, Z, C or V (R32): data processing and multiplies with S, compares, THUMB formats 1 to
4 and CMP of format 5, MSR, and the returns of R517. -/
def writesFlags : Instr → Bool
  | .andImm f | .eorImm f | .subImm f | .rsbImm f | .addImm f | .adcImm f | .sbcImm f | .rscImm f | .orrImm f | .movImm f
  | .bicImm f | .mvnImm f => f.s
  | .andReg f | .eorReg f | .subReg f | .rsbReg f | .addReg f | .adcReg f | .sbcReg f | .rscReg f | .orrReg f | .movReg f
  | .bicReg f | .mvnReg f => f.s
  | .andRsr f | .eorRsr f | .subRsr f | .rsbRsr f | .addRsr f | .adcRsr f | .sbcRsr f | .rscRsr f | .orrRsr f | .movRsr f
  | .bicRsr f | .mvnRsr f => f.s
  | .tstImm _ | .tstReg _ | .tstRsr _ | .teqImm _ | .teqReg _ | .teqRsr _ | .cmpImm _ | .cmpReg _ | .cmpRsr _ | .cmnImm _
  | .cmnReg _ | .cmnRsr _ => true
  | .mul f | .mla f => f.s
  | .umull f | .umlal f | .smull f | .smlal f => f.s
  | .msrReg _ | .msrImm _ | .ldmReturn _ => true
  | .tLslImm _ _ _ | .tLsrImm _ _ _ | .tAsrImm _ _ _ | .tAddReg _ _ _ | .tSubReg _ _ _ | .tAddImm3 _ _ _
  | .tSubImm3 _ _ _ | .tMovImm8 _ _ | .tCmpImm8 _ _ | .tAddImm8 _ _ | .tSubImm8 _ _ => true
  | .tAnd _ _ | .tEor _ _ | .tLsl _ _ | .tLsr _ _ | .tAsr _ _ | .tAdc _ _ | .tSbc _ _ | .tRor _ _ | .tTst _ _ | .tNeg _ _
  | .tCmp _ _ | .tCmn _ _ | .tOrr _ _ | .tMul _ _ | .tBic _ _ | .tMvn _ _ => true
  | .tCmpHi _ _ _ _ => true
  | _ => false

/-! ## Steps -/

/-- How many bytes an instruction has (R100). -/
def codeWidth (s : State) : Width := if s.cpsr.t then .half else .word

/-- The instruction that stands at an address in a memory, in ARM or THUMB state (R67, R151). -/
def codeIn (m : Memory) (thumb : Bool) (a : Word) : Code :=
  if thumb then .thumb (byteAt m (a + 1#32) ++ byteAt m a) else .arm (wordAt m a)

/-- The instruction fetched at pc: what stands there when the interface has answered (R67, R151). -/
def codeAt (s : State) : Code := codeIn (asked s s.pc (codeWidth s)).mem s.cpsr.t s.pc

/-- The condition field of the ARM word fetched at pc (R153). -/
def fetchedCond (s : State) : Cond := condOf (wordAt (asked s s.pc .word).mem s.pc)

/-- `t` is the state after the fetch: one read, its cost, and pc has moved on (R151, R152). -/
def Fetched (s t : State) : Prop :=
  OneRead s t s.pc (codeWidth s) ∧
    t = { asked s s.pc (codeWidth s) with
      pc := BitVec.ofNat 32 (s.pc.toNat + (codeWidth s).bytes)
      stepCost := accessCycles s (readRequest s.pc (codeWidth s))
      wrotePc := false }

/-- How often each peripheral was ticked, in cycles, in list order. -/
def elapsed (s : State) : List Nat := s.plat.periphs.map Peripheral.elapsed

/-- The pattern of R131 for an ARM word with no row, on bits 27:20 and 7:4. -/
def armNoRow (hi : BitVec 8) (lo : BitVec 4) : Prop :=
  (lo = 0b1001#4 ∧ hi.extractLsb' 2 6 = 0b000001#6) ∨
    (lo = 0b1001#4 ∧ hi.extractLsb' 3 5 = 0b00010#5 ∧ hi.extractLsb' 0 2 ≠ 0b00#2) ∨
    (lo = 0b1001#4 ∧ hi.extractLsb' 3 5 = 0b00011#5) ∨
    ((lo = 0b1101#4 ∨ lo = 0b1111#4) ∧ hi.extractLsb' 5 3 = 0b000#3 ∧ hi.getLsbD 0 = false) ∨
    (hi.extractLsb' 3 5 = 0b00010#5 ∧ hi.getLsbD 0 = false ∧ (lo.getLsbD 3 = false ∨ lo.getLsbD 0 = false) ∧
      lo ≠ 0b0000#4 ∧ ¬(hi = 0b00010010#8 ∧ lo = 0b0001#4)) ∨
    (hi.extractLsb' 3 5 = 0b00110#5 ∧ hi.extractLsb' 0 2 = 0b00#2)

/-- The THUMB halfwords with no row (R131). -/
def thumbNoRow (h : Nat) : Prop :=
  (0x4780 ≤ h ∧ h ≤ 0x47FF) ∨ (0xB100 ≤ h ∧ h ≤ 0xB3FF) ∨ (0xB600 ≤ h ∧ h ≤ 0xBBFF) ∨ (0xBE00 ≤ h ∧ h ≤ 0xBFFF) ∨
    (0xE800 ≤ h ∧ h ≤ 0xEFFF)

end Sys2Proof.Machine.Claims

open Sys2Proof Sys2Proof.Machine Sys2Proof.Machine.Claims

/-! ## Reset, invariant, encoding -/

/-- R561: what construction and reset leave, and that the first fetch is at 0 and not sequential. -/
def Obligations.ResetState : Prop :=
  ∀ image plat, ∀ s ∈ State.construct image plat,
    (∀ p, s.phys p = 0#32) ∧ (∀ b, s.inspectSpsr b = 0#32) ∧ s.inspectCpsr = 0x000000D3#32 ∧
      s.cpsr = { n := false, z := false, c := false, v := false, i := true, f := true, t := false, mode := .svc } ∧
      s.pc = 0x00000000#32 ∧ s.inspectHalted = false ∧ s.mem = image ∧ s.plat = plat ∧
      (∀ m i, s.inspect m i = 0#32) ∧ sequential s.lastAccess s.pc = false ∧
      (fetch s).2.stepCost = 1 + Config.accessWait plat.bus ⟨.read, 0x00000000#32, .word, 0#32⟩ false

/-- The invariant holds right after reset, and after construction with any image that is accepted. -/
def Obligations.ResetMeetsInvariant : Prop :=
  State.reset.Inv ∧ ∀ image plat, image.wf = true → ∃ s, State.construct image plat = some s ∧ s.Inv

/-- R28, R45: every step keeps memory canonical and pc aligned, and leaves the step's own mark empty. -/
def Obligations.StepKeepsInvariant : Prop := ∀ s t, s.Inv → step s = .next t → t.Inv

/-- Decoding what is encoded gives the instruction back, for every instruction and every field value. -/
def Obligations.DecodeOfEncode : Prop := ∀ i, decode (encode i) = .ok i

/-- Every word that decodes is the encoding of what it decodes to: no bit of it is dropped. -/
def Obligations.EncodeOfDecode : Prop := ∀ c i, decode c = .ok i → encode i = c

/-- Words the rules give as examples decode to what the rules say they are. -/
def Obligations.DecodedWords : Prop :=
  decode (.arm 0xE0510002#32) =
      .ok (.subReg { cond := .al, s := true, rn := 1#4, rd := 0#4, shiftImm := 0#5, type := .lsl, rm := 2#4 }) ∧
    decode (.arm 0xE0203291#32) = .ok (.mla { cond := .al, s := false, rd := 0#4, rn := 3#4, rs := 2#4, rm := 1#4 }) ∧
    decode (.arm 0xE6910102#32) =
      .ok (.ldrRegPost { cond := .al, u := true, rn := 1#4, rd := 0#4, shiftImm := 2#5, type := .lsl, rm := 2#4 }) ∧
    decode (.arm 0xE92D4010#32) =
      .ok (.stm { cond := .al, p := true, u := false, w := true, rn := 13#4, list := 0x4010#16 }) ∧
    decode (.arm 0xE129F000#32) =
      .ok (.msrReg { cond := .al, r := false, fieldMask := 0b1001#4, sbo := 15#4, sbz := 0#4, rm := 0#4 }) ∧
    decode (.arm 0xEAFFFBFE#32) = .ok (.b { cond := .al, offset24 := 0xFFFBFE#24 }) ∧
    decode (.thumb 0x4802#16) = .ok (.tLdrPc 0#3 2#8) ∧
    decode (.thumb 0x5E88#16) = .ok (.tLdshReg 2#3 1#3 0#3) ∧
    decode (.thumb 0xB510#16) = .ok (.tPush true 0x10#8) ∧
    decode (.thumb 0xD1FE#16) = .ok (.tBne 0xFE#8) ∧
    decode (.thumb 0xF87E#16) = .ok (.tBlSecond 0x07E#11)

/-- R131: exactly the listed words have no row. -/
def Obligations.WordsWithNoRow : Prop :=
  (∀ x : Word, (∀ i, decode (.arm x) ≠ .ok i) ↔ armNoRow (x.extractLsb' 20 8) (x.extractLsb' 4 4)) ∧
    ∀ h : Half, (∀ i, decode (.thumb h) ≠ .ok i) ↔ thumbNoRow h.toNat

/-! ## The step -/

/-- A step that is not halted runs the instruction fetched at pc in the state after the fetch; then come the refill charge, the
interrupt poll and the tick of the step's cost (R150 to R162, R452). Where no device is at pc, the instruction is the one in
memory. The refill charge is `RefillCost` of the pc and T the instruction leaves if it wrote pc, else nothing, and nothing else of the
state changes but the mark (R157; that it is charged once is log 8). -/
def Obligations.StepRunsTheDecodedInstruction : Prop :=
  (∀ s i, s.halted = false → decode (codeAt s) = .ok i →
    ∃ t, Fetched s t ∧ step s = andThen (exec i t) fun u => account (boundaryCheck (chargeRefill u))) ∧
    (∀ s, Unwatched s s.pc (codeWidth s) → codeAt s = codeIn s.mem s.cpsr.t s.pc) ∧
    ∀ u, chargeRefill u =
      { u with stepCost := u.stepCost + (if u.wrotePc then Config.refillCost u.pc u.cpsr.t else 0), wrotePc := false }

/-- R152: the fetch leaves pc at `(cur + w) mod 2^32`, register 15 reads one width further, and an instruction that neither
writes pc nor raises leaves it there. -/
def Obligations.PcAdvancesBeforeExecution : Prop :=
  (∀ s, (fetch s).2.pc.toNat = (s.pc.toNat + (if s.cpsr.t then 2 else 4)) % 2 ^ 32 ∧
      (s.cpsr.t = false → readArm 15#4 (fetch s).2 = s.pc + 8#32) ∧
      (s.cpsr.t = true → readThumb 15#4 (fetch s).2 = s.pc + 4#32)) ∧
    ∀ i s t, exec i s = .next t → t.wrotePc = false → i.raises = false → t.pc = s.pc

/-- R156: a word with no row, its condition passed or the state THUMB, takes the Undefined exception and does nothing else. -/
def Obligations.WordsWithNoRowAreUndefined : Prop :=
  ∀ s, s.halted = false → (∀ i, decode (codeAt s) ≠ .ok i) →
    (s.cpsr.t = false → condPassed (fetchedCond s) s.cpsr = true) →
    ∃ t u, Fetched s t ∧ Enters t u .und 0x00000004#32 t.pc 0#32 false ∧ u.plat = t.plat ∧ u.wrotePc = false ∧
      u.stepCost = t.stepCost + Config.excEntryCost .undefined + Config.refillCost 0x00000004#32 false ∧
      step s = .next (account (boundaryCheck u))

/-- R154: an ARM word whose condition fails does nothing, row or no row; its step costs the fetch, pc has advanced, and the
end-of-step check is made. A THUMB instruction has no condition field. -/
def Obligations.FailedConditionDoesNothing : Prop :=
  (∀ s, s.halted = false → s.cpsr.t = false → condPassed (fetchedCond s) s.cpsr = false →
      ∃ t, Fetched s t ∧ step s = .next (account (boundaryCheck t))) ∧
    (∀ i c s, i.cond = some c → condPassed c s.cpsr = false → exec i s = .next s) ∧
    ∀ h i, decode (.thumb h) = .ok i → i.cond = none

/-- R155: when each condition passes, and what it means after a compare of `a` with `b`. -/
def Obligations.ConditionTable : Prop :=
  (∀ p : Cpsr,
    (condPassed .eq p ↔ p.z = true) ∧ (condPassed .ne p ↔ p.z = false) ∧ (condPassed .cs p ↔ p.c = true) ∧
    (condPassed .cc p ↔ p.c = false) ∧ (condPassed .mi p ↔ p.n = true) ∧ (condPassed .pl p ↔ p.n = false) ∧
    (condPassed .vs p ↔ p.v = true) ∧ (condPassed .vc p ↔ p.v = false) ∧
    (condPassed .hi p ↔ p.c = true ∧ p.z = false) ∧ (condPassed .ls p ↔ p.c = false ∨ p.z = true) ∧
    (condPassed .ge p ↔ p.n = p.v) ∧ (condPassed .lt p ↔ p.n ≠ p.v) ∧
    (condPassed .gt p ↔ p.z = false ∧ p.n = p.v) ∧ (condPassed .le p ↔ p.z = true ∨ p.n ≠ p.v) ∧
    condPassed .al p = true ∧ condPassed .nv p = false) ∧
  ∀ (p : Cpsr) (a b : Word),
    let q := p.withResult (aluCmp a b false p)
    (condPassed .eq q ↔ a = b) ∧ (condPassed .ne q ↔ a ≠ b) ∧ (condPassed .cs q ↔ b.toNat ≤ a.toNat) ∧
    (condPassed .cc q ↔ a.toNat < b.toNat) ∧ (condPassed .mi q ↔ (a - b).toInt < 0) ∧
    (condPassed .pl q ↔ 0 ≤ (a - b).toInt) ∧ (condPassed .vs q ↔ a.toInt - b.toInt ≠ (a - b).toInt) ∧
    (condPassed .vc q ↔ a.toInt - b.toInt = (a - b).toInt) ∧ (condPassed .hi q ↔ b.toNat < a.toNat) ∧
    (condPassed .ls q ↔ a.toNat ≤ b.toNat) ∧ (condPassed .ge q ↔ b.toInt ≤ a.toInt) ∧
    (condPassed .lt q ↔ a.toInt < b.toInt) ∧ (condPassed .gt q ↔ b.toInt < a.toInt) ∧
    (condPassed .le q ↔ a.toInt ≤ b.toInt)

/-! ## Shared machinery -/

/-- R166: the adder's result, carry and overflow as integers, and the six uses of it. -/
def Obligations.AdderIsExact : Prop :=
  (∀ a b c,
    (addWithCarry a b c).r.toNat = (a.toNat + b.toNat + c.toNat) % 2 ^ 32 ∧
    ((addWithCarry a b c).c = true ↔ 2 ^ 32 ≤ a.toNat + b.toNat + c.toNat) ∧
    ((addWithCarry a b c).v = true ↔
      a.toInt + b.toInt + c.toNat < -2 ^ 31 ∨ 2 ^ 31 ≤ a.toInt + b.toInt + c.toNat) ∧
    ((addWithCarry a b c).v = true ↔ a.msb = b.msb ∧ (addWithCarry a b c).r.msb ≠ a.msb)) ∧
  ∀ a b sc p,
    let not (c : Bool) : Word := if c then 0#32 else 1#32
    (aluAdd a b sc p).r = a + b ∧ aluCmn a b sc p = aluAdd a b sc p ∧ (aluAdc a b sc p).r = a + b + (1#32 - not p.c) ∧
    (aluSub a b sc p).r = a - b ∧ aluCmp a b sc p = aluSub a b sc p ∧ (aluSbc a b sc p).r = a - b - not p.c ∧
    (aluRsb a b sc p).r = b - a ∧ (aluRsc a b sc p).r = b - a - not p.c ∧
    ((aluSub a b sc p).c = true ↔ b.toNat ≤ a.toNat) ∧ ((aluRsb a b sc p).c = true ↔ a.toNat ≤ b.toNat) ∧
    ((aluSbc a b sc p).c = true ↔ b.toNat + (not p.c).toNat ≤ a.toNat) ∧
    ((aluRsc a b sc p).c = true ↔ a.toNat + (not p.c).toNat ≤ b.toNat)

/-- R164: the immediate operand and the shift by an immediate amount, bit by bit, with their carries. -/
def Obligations.ShiftByImmediate : Prop :=
  (∀ (rotate : BitVec 4) (imm8 : BitVec 8) (cin : Bool),
    let x := immOperand rotate imm8 cin
    (∀ k, k < 32 → x.1.getLsbD k = (imm8.setWidth 32).getLsbD ((k + 2 * rotate.toNat) % 32)) ∧
      x.2 = if rotate = 0#4 then cin else x.1.getLsbD 31) ∧
  ∀ (n : BitVec 5) (m : Word) (cin : Bool) (k : Nat), k < 32 →
    (n = 0#5 →
      shiftImm .lsl n m cin = (m, cin) ∧ shiftImm .lsr n m cin = (0#32, m.getLsbD 31) ∧
      shiftImm .asr n m cin = (if m.getLsbD 31 then 0xFFFFFFFF#32 else 0#32, m.getLsbD 31) ∧
      (shiftImm .ror n m cin).1.getLsbD k = (if k = 31 then cin else m.getLsbD (k + 1)) ∧
      (shiftImm .ror n m cin).2 = m.getLsbD 0) ∧
    (n ≠ 0#5 →
      (shiftImm .lsl n m cin).1.getLsbD k = (decide (n.toNat ≤ k) && m.getLsbD (k - n.toNat)) ∧
      (shiftImm .lsl n m cin).2 = m.getLsbD (32 - n.toNat) ∧
      (shiftImm .lsr n m cin).1.getLsbD k = m.getLsbD (k + n.toNat) ∧
      (shiftImm .lsr n m cin).2 = m.getLsbD (n.toNat - 1) ∧
      (shiftImm .asr n m cin).1.getLsbD k = m.getLsbD (min (k + n.toNat) 31) ∧
      (shiftImm .asr n m cin).2 = m.getLsbD (n.toNat - 1) ∧
      (shiftImm .ror n m cin).1.getLsbD k = m.getLsbD ((k + n.toNat) % 32) ∧
      (shiftImm .ror n m cin).2 = m.getLsbD (n.toNat - 1))

/-- R165: the shift by the low byte of a register, bit by bit, with its carry; register 15 as `Rm` or `Rn` reads `cur + 12`. -/
def Obligations.ShiftByRegister : Prop :=
  (∀ (n : Byte) (m : Word) (cin : Bool) (k : Nat), k < 32 →
    (n.toNat = 0 → ∀ type, shiftReg type n m cin = (m, cin)) ∧
    (n.toNat ≠ 0 →
      (shiftReg .lsl n m cin).1.getLsbD k = (decide (n.toNat ≤ k) && m.getLsbD (k - n.toNat)) ∧
      (shiftReg .lsl n m cin).2 = (decide (n.toNat ≤ 32) && m.getLsbD (32 - n.toNat)) ∧
      (shiftReg .lsr n m cin).1.getLsbD k = m.getLsbD (k + n.toNat) ∧
      (shiftReg .lsr n m cin).2 = m.getLsbD (n.toNat - 1) ∧
      (shiftReg .asr n m cin).1.getLsbD k = m.getLsbD (min (k + n.toNat) 31) ∧
      (shiftReg .asr n m cin).2 = m.getLsbD (min (n.toNat - 1) 31) ∧
      (shiftReg .ror n m cin).1.getLsbD k = m.getLsbD ((k + n.toNat) % 32) ∧
      (shiftReg .ror n m cin).2 = m.getLsbD ((n.toNat + 31) % 32))) ∧
  (∀ v : Word, (lowByte v).toNat = v.toNat % 256) ∧
  ∀ s cur, s.pc = cur + 4#32 → readArm12 15#4 s = cur + 12#32

/-- R23, R24: the bank map; a write changes the one register the map gives; a change of mode changes no register and no SPSR,
and names the new mode's registers. -/
def Obligations.Banks : Prop :=
  (∀ m, (List.range 15).map (fun i => physReg m (BitVec.ofNat 4 i)) = bankOf m) ∧
  ([Mode.usr, .sys, .fiq, .irq, .svc, .abt, .und].map excModeOf =
    [none, none, some .fiq, some .irq, some .svc, some .abt, some .und]) ∧
  (∀ s i v, i ≠ 15#4 →
    readArm i s = s.phys (physReg s.cpsr.mode i) ∧ readUser i s = s.phys (physReg .usr i) ∧
    (writeReg i v s).phys (physReg s.cpsr.mode i) = v ∧
    ∀ p, p ≠ physReg s.cpsr.mode i → (writeReg i v s).phys p = s.phys p) ∧
  ∀ (s : State) (q : Cpsr), (∀ p, (s.setCpsr q).phys p = s.phys p) ∧ (∀ b, (s.setCpsr q).spsr b = s.spsr b) ∧
    ∀ i, i ≠ 15#4 → readArm i (s.setCpsr q) = s.phys (physReg q.mode i)

/-- R27, R158: what register 15 reads as for each use of it, and that writing it is a write of an aligned pc and nothing else. -/
def Obligations.Register15 : Prop :=
  (∀ s cur, s.pc = cur + 4#32 → readArm 15#4 s = cur + 8#32 ∧ readArm12 15#4 s = cur + 12#32) ∧
  (∀ s cur, s.pc = cur + 2#32 → readThumb 15#4 s = cur + 4#32 ∧ thumbPcBase s = (cur + 4#32) &&& ~~~2#32) ∧
  ∀ s v,
    (s.cpsr.t = false → (writeReg 15#4 v s).pc.toNat = v.toNat / 4 * 4) ∧
    (s.cpsr.t = true → (writeReg 15#4 v s).pc.toNat = v.toNat / 2 * 2) ∧
    (writeReg 15#4 v s).regs = s.regs ∧ (writeReg 15#4 v s).cpsr = s.cpsr ∧ Untouched s (writeReg 15#4 v s)

/-! ## ARM data processing -/

/-- SUB, RSB, ADD, ADC, SBC, RSC in their three forms, `Rd` not 15: they complete with the exact sum modulo 2^32, the flags it gives
if S, and nothing else changed (R200 to R202, R212 to R217). `Rs = 15` (U9) reads as `cur + 12`: the model's choice (log 17).
Internal cycles: R575's defaults, the model's choice (log 33). -/
def Obligations.ArmArithmetic : Prop :=
  ∀ row ∈ sumRows, ∀ s,
    (∀ f : DpImm, condPassed f.cond s.cpsr = true → f.rd ≠ 15#4 →
      let a := readArm f.rn s
      let b := (operandImm f s).1
      Computes (row.imm f) s (some f.rd) (row.op.result s.cpsr a b) (if f.s then row.op.flags s.cpsr a b else s.cpsr) 0) ∧
    (∀ f : DpReg, condPassed f.cond s.cpsr = true → f.rd ≠ 15#4 →
      let a := readArm f.rn s
      let b := (operandReg f s).1
      Computes (row.reg f) s (some f.rd) (row.op.result s.cpsr a b) (if f.s then row.op.flags s.cpsr a b else s.cpsr) 0) ∧
    ∀ f : DpRsr, condPassed f.cond s.cpsr = true → f.rd ≠ 15#4 →
      let a := readArm12 f.rn s
      let b := (operandRsr f s).1
      Computes (row.rsr f) s (some f.rd) (row.op.result s.cpsr a b) (if f.s then row.op.flags s.cpsr a b else s.cpsr) 1

/-- AND, EOR, ORR, MOV, BIC, MVN in their three forms, `Rd` not 15: they complete with the bitwise result; with S, N and Z come from
it, C from the shifter, V stays (R200 to R202, R210, R211, R222 to R225). `Rs = 15` (U9) reads as `cur + 12`: the model's choice
(log 17). Internal cycles: R575's defaults, the model's choice (log 33). -/
def Obligations.ArmLogical : Prop :=
  ∀ row ∈ logicalRows, ∀ s,
    (∀ f : DpImm, condPassed f.cond s.cpsr = true → f.rd ≠ 15#4 →
      let r := row.op (readArm f.rn s) (operandImm f s).1
      Computes (row.imm f) s (some f.rd) r (if f.s then logicalFlags s.cpsr r (operandImm f s).2 else s.cpsr) 0) ∧
    (∀ f : DpReg, condPassed f.cond s.cpsr = true → f.rd ≠ 15#4 →
      let r := row.op (readArm f.rn s) (operandReg f s).1
      Computes (row.reg f) s (some f.rd) r (if f.s then logicalFlags s.cpsr r (operandReg f s).2 else s.cpsr) 0) ∧
    ∀ f : DpRsr, condPassed f.cond s.cpsr = true → f.rd ≠ 15#4 →
      let r := row.op (readArm12 f.rn s) (operandRsr f s).1
      Computes (row.rsr f) s (some f.rd) r (if f.s then logicalFlags s.cpsr r (operandRsr f s).2 else s.cpsr) 1

/-- TST, TEQ, CMP, CMN in their three forms: they complete with the flags alone changed, whatever the `Rd` field holds (R201, R218
to R221). `Rs = 15` (U9) reads as `cur + 12`: the model's choice (log 17). Internal cycles: R575's defaults, the model's choice (log
33). -/
def Obligations.ArmCompare : Prop :=
  ∀ s,
    (∀ f : CmpImm, condPassed f.cond s.cpsr = true →
      let a := readArm f.rn s
      let b := immOperand f.rotate f.imm8 s.cpsr.c
      Computes (.tstImm f) s none 0#32 (logicalFlags s.cpsr (a &&& b.1) b.2) 0 ∧
      Computes (.teqImm f) s none 0#32 (logicalFlags s.cpsr (a ^^^ b.1) b.2) 0 ∧
      Computes (.cmpImm f) s none 0#32 (minus.flags s.cpsr a b.1) 0 ∧
      Computes (.cmnImm f) s none 0#32 (plus.flags s.cpsr a b.1) 0) ∧
    (∀ f : CmpReg, condPassed f.cond s.cpsr = true →
      let a := readArm f.rn s
      let b := shiftImm f.type f.shiftImm (readArm f.rm s) s.cpsr.c
      Computes (.tstReg f) s none 0#32 (logicalFlags s.cpsr (a &&& b.1) b.2) 0 ∧
      Computes (.teqReg f) s none 0#32 (logicalFlags s.cpsr (a ^^^ b.1) b.2) 0 ∧
      Computes (.cmpReg f) s none 0#32 (minus.flags s.cpsr a b.1) 0 ∧
      Computes (.cmnReg f) s none 0#32 (plus.flags s.cpsr a b.1) 0) ∧
    ∀ f : CmpRsr, condPassed f.cond s.cpsr = true →
      let a := readArm12 f.rn s
      let b := shiftReg f.type (lowByte (readArm12 f.rs s)) (readArm12 f.rm s) s.cpsr.c
      Computes (.tstRsr f) s none 0#32 (logicalFlags s.cpsr (a &&& b.1) b.2) 1 ∧
      Computes (.teqRsr f) s none 0#32 (logicalFlags s.cpsr (a ^^^ b.1) b.2) 1 ∧
      Computes (.cmpRsr f) s none 0#32 (minus.flags s.cpsr a b.1) 1 ∧
      Computes (.cmnRsr f) s none 0#32 (plus.flags s.cpsr a b.1) 1

/-- Destination 15 (R203, R517): without S a branch; with S the CPSR becomes the mode's SPSR and pc the result aligned for the
restored state; an illegal mode number in the SPSR faults (U1). In User and System mode the CPSR stays and pc is still written: the
model's choice among those U3 allows (log 17). Either way a refill is owed (R157). Internal cycles: R575's defaults, the model's
choice (log 33). -/
def Obligations.DataProcessingToPc : Prop :=
  ∀ s i c sBit r, pcForm s i = some (c, sBit, r) → condPassed c s.cpsr = true → s.cpsr.t = false →
    (sBit = false ∨ excModeOf s.cpsr.mode = none → Ends i s fun t =>
      t.pc.toNat = r.toNat / 4 * 4 ∧ t.wrotePc = true ∧ t.cpsr = s.cpsr ∧ Registers s t (slot s) ∧ Untouched s t ∧
        t.stepCost = s.stepCost + dpCycles i) ∧
    ∀ b, sBit = true → excModeOf s.cpsr.mode = some b →
      let p := s.spsr b
      (∀ m, modeOfBits p.m = some m → Ends i s fun t =>
        t.cpsr = { n := p.n, z := p.z, c := p.c, v := p.v, i := p.i, f := p.f, t := p.t, mode := m } ∧
        t.pc.toNat = (if p.t then r.toNat / 2 * 2 else r.toNat / 4 * 4) ∧ t.wrotePc = true ∧
        Registers s t (slot s) ∧ Untouched s t ∧ t.stepCost = s.stepCost + dpCycles i) ∧
      (modeOfBits p.m = none → exec i s = .fault .illegalMode)

/-! ## Multiplies -/

/-- MUL and MLA (R240, R241, R247, R248): the product modulo 2^32; with S, N and Z come from it, V stays, and C is some bit. They
complete for every register combination; those of U11 run as written (log 15). The internal cycles come from the multiplier count of
R248 by R575's defaults, the model's choice (log 33). -/
def Obligations.MultiplyResults : Prop :=
  ∀ (f : MulFields) s, condPassed f.cond s.cpsr = true →
    let m := (readArm f.rm s).toNat
    let k := (readArm f.rs s).toNat
    let done (i : Instr) (r : Word) (cycles : Nat) : Prop :=
      Ends i s fun t =>
        Registers s t (written s f.rd r) ∧ t.pc = pcWritten s f.rd r ∧ t.wrotePc = pcMark s (f.rd = 15#4) ∧ Untouched s t ∧
        t.stepCost = s.stepCost + cycles ∧
        (f.s = false → t.cpsr = s.cpsr) ∧ (f.s = true → ∃ c, t.cpsr = logicalFlags s.cpsr r c)
    done (.mul f) (BitVec.ofNat 32 (m * k)) (signedCount (readArm f.rs s)) ∧
    done (.mla f) (BitVec.ofNat 32 (m * k + (readArm f.rn s).toNat)) (signedCount (readArm f.rs s) + 1)

/-- UMULL, UMLAL, SMULL, SMLAL (R242 to R245, R247, R248): the 64-bit value to `RdHi : RdLo`; with S, N is its bit 63, Z says it is
0, and C and V are some bits. Register combinations of U11 run as written (log 15). The internal cycles come from the multiplier
count of R248 by R575's defaults, the model's choice (log 33). -/
def Obligations.LongMultiplyResults : Prop :=
  ∀ (f : MullFields) s, condPassed f.cond s.cpsr = true →
    let m := readArm f.rm s
    let k := readArm f.rs s
    let acc := (readArm f.rdHi s).toNat * 2 ^ 32 + (readArm f.rdLo s).toNat
    let done (i : Instr) (p : BitVec 64) (cycles : Nat) : Prop :=
      Ends i s fun t =>
        Registers s t (twoWritten s f p) ∧
        t.pc = (if f.rdHi = 15#4 then alignPc s.cpsr.t (p.extractLsb' 32 32) else pcWritten s f.rdLo (p.extractLsb' 0 32)) ∧
        t.wrotePc = pcMark s (f.rdLo = 15#4 ∨ f.rdHi = 15#4) ∧ Untouched s t ∧ t.stepCost = s.stepCost + cycles ∧
        (f.s = false → t.cpsr = s.cpsr) ∧
        (f.s = true → ∃ c v, t.cpsr = { s.cpsr with n := p.getLsbD 63, z := decide (p = 0#64), c := c, v := v })
    done (.umull f) (BitVec.ofNat 64 (m.toNat * k.toNat)) (unsignedCount k + 1) ∧
    done (.umlal f) (BitVec.ofNat 64 (m.toNat * k.toNat + acc)) (unsignedCount k + 2) ∧
    done (.smull f) (BitVec.ofInt 64 (m.toInt * k.toInt)) (signedCount k + 1) ∧
    done (.smlal f) (BitVec.ofInt 64 (m.toInt * k.toInt + acc)) (signedCount k + 2)

/-! ## Status registers -/

/-- MRS (R305, R30, R35): the 32 bits of the CPSR, or of the current mode's SPSR, with bits 27:8 zero. Where the mode has no SPSR
some value is read (U3). Any `Rd` completes; `Rd = 15` (U25) is a branch to the value (log 17). Internal cycles: R575's defaults,
the model's choice (log 33). -/
def Obligations.MrsReads : Prop :=
  ∀ (f : MrsFields) s, condPassed f.cond s.cpsr = true → Ends (.mrs f) s fun t =>
    ∃ x : Word, Registers s t (written s f.rd x) ∧ t.pc = pcWritten s f.rd x ∧ t.wrotePc = pcMark s (f.rd = 15#4) ∧
      t.cpsr = s.cpsr ∧ Untouched s t ∧ t.stepCost = s.stepCost ∧
      ∀ p, (if f.r then (excModeOf s.cpsr.mode).map s.spsr else some s.cpsr.save) = some p →
        x.getLsbD 31 = p.n ∧ x.getLsbD 30 = p.z ∧ x.getLsbD 29 = p.c ∧ x.getLsbD 28 = p.v ∧
        (∀ k, 8 ≤ k → k < 28 → x.getLsbD k = false) ∧ x.getLsbD 7 = p.i ∧ x.getLsbD 6 = p.f ∧ x.getLsbD 5 = p.t ∧
        x.extractLsb' 0 5 = p.m

/-- MSR to the CPSR in both forms (R306, R37): flags from the operand if `f` is selected; I, F and the mode if `c` is selected and
the mode is privileged; T never. An illegal mode number faults (U1). `Rm = 15` (U25) is read as any other operand: the model's
choice (log 17). Internal cycles: R575's defaults, the model's choice (log 33). -/
def Obligations.MsrCpsr : Prop :=
  ∀ s i c mask operand,
    ((∃ f, i = .msrReg f ∧ c = f.cond ∧ f.r = false ∧ mask = f.fieldMask ∧ operand = readArm f.rm s) ∨
      ∃ f, i = .msrImm f ∧ c = f.cond ∧ f.r = false ∧ mask = f.fieldMask ∧
        operand = (immOperand f.rotate f.imm8 s.cpsr.c).1) →
    condPassed c s.cpsr = true →
    let flags := mask.getLsbD 3
    let control := mask.getLsbD 0 && s.cpsr.mode != .usr
    let mode := if control then modeOfBits (operand.extractLsb' 0 5) else some s.cpsr.mode
    (∀ m, mode = some m → Ends i s fun t =>
      t.cpsr =
        { n := if flags then operand.getLsbD 31 else s.cpsr.n, z := if flags then operand.getLsbD 30 else s.cpsr.z,
          c := if flags then operand.getLsbD 29 else s.cpsr.c, v := if flags then operand.getLsbD 28 else s.cpsr.v,
          i := if control then operand.getLsbD 7 else s.cpsr.i, f := if control then operand.getLsbD 6 else s.cpsr.f,
          t := s.cpsr.t, mode := m } ∧
      Registers s t (slot s) ∧ t.pc = s.pc ∧ t.wrotePc = s.wrotePc ∧ Untouched s t ∧ t.stepCost = s.stepCost) ∧
    (mode = none → exec i s = .fault .illegalMode)

/-- MSR to the SPSR in both forms (R306): flags if `f` is selected, I, F, T and M if `c` is selected, of the current mode's SPSR
only. In User and System mode nothing is written, the model's choice among those U3 allows, and `Rm = 15` (U25) is read as any other
operand (log 17). Internal cycles: R575's defaults, the model's choice (log 33). -/
def Obligations.MsrSpsr : Prop :=
  ∀ s i c mask operand,
    ((∃ f, i = .msrReg f ∧ c = f.cond ∧ f.r = true ∧ mask = f.fieldMask ∧ operand = readArm f.rm s) ∨
      ∃ f, i = .msrImm f ∧ c = f.cond ∧ f.r = true ∧ mask = f.fieldMask ∧
        operand = (immOperand f.rotate f.imm8 s.cpsr.c).1) →
    condPassed c s.cpsr = true → Ends i s fun t =>
      t.cpsr = s.cpsr ∧ Registers s t (slot s) ∧ t.pc = s.pc ∧ t.wrotePc = s.wrotePc ∧ MemoryKept s t ∧
      t.lastAccess = s.lastAccess ∧ t.plat = s.plat ∧ t.halted = s.halted ∧ t.budget = s.budget ∧ t.stepCost = s.stepCost ∧
      ∀ b, t.spsr b =
        if excModeOf s.cpsr.mode = some b then
          let p := s.spsr b
          let flags := mask.getLsbD 3
          let control := mask.getLsbD 0
          { n := if flags then operand.getLsbD 31 else p.n, z := if flags then operand.getLsbD 30 else p.z,
            c := if flags then operand.getLsbD 29 else p.c, v := if flags then operand.getLsbD 28 else p.v,
            i := if control then operand.getLsbD 7 else p.i, f := if control then operand.getLsbD 6 else p.f,
            t := if control then operand.getLsbD 5 else p.t, m := if control then operand.extractLsb' 0 5 else p.m }
        else s.spsr b

/-! ## Branches -/

/-- R300, R301: B and BL go to `cur + 8` and four times the signed offset, modulo 2^32; BL puts `cur + 4` in r14. Internal cycles:
R575's defaults, the model's choice (log 33). -/
def Obligations.ArmBranches : Prop :=
  ∀ (f : BranchFields) s cur, s.pc = cur + 4#32 → s.cpsr.t = false → cur.toNat % 4 = 0 → condPassed f.cond s.cpsr = true →
    let target := BitVec.ofInt 32 (cur.toNat + 8 + 4 * f.offset24.toInt)
    Branches (.b f) s target ∧ target.toNat % 4 = 0 ∧
    Ends (.bl f) s fun t =>
      t.pc = target ∧ t.wrotePc = true ∧ Registers s t (written s 14#4 (cur + 4#32)) ∧ t.cpsr = s.cpsr ∧ Untouched s t ∧
      t.stepCost = s.stepCost

/-- BX in both states (R302, R368): T is bit 0 of the register, pc the register aligned for the new T; nothing else changes.
Register 15 (U19) is read as any other operand (log 17). Internal cycles: R575's defaults, the model's choice (log 33). -/
def Obligations.BranchExchange : Prop :=
  ∀ s i v,
    ((∃ f, i = .bx f ∧ condPassed f.cond s.cpsr = true ∧ v = readArm f.rm s) ∨
      ∃ h r z, i = .tBx h r z ∧ v = readThumb (highSlot h r) s) →
    Ends i s fun t =>
      t.cpsr = { s.cpsr with t := v.getLsbD 0 } ∧ t.pc = (if v.getLsbD 0 then v &&& ~~~1#32 else v &&& ~~~3#32) ∧
      t.wrotePc = true ∧ Registers s t (slot s) ∧ Untouched s t ∧ t.stepCost = s.stepCost

/-- The THUMB branches (R430, R431, R436, R437): a conditional branch goes to `cur + 4` and twice the signed offset, or does
nothing; B always goes; the first half of BL only writes r14; the second goes there plus twice its offset and leaves `(cur + 2) | 1`
in r14. Internal cycles: R575's defaults, the model's choice (log 33). -/
def Obligations.ThumbBranches : Prop :=
  ∀ s cur, s.pc = cur + 2#32 → s.cpsr.t = true → cur.toNat % 2 = 0 →
    (∀ i c o, thumbBranch i = some (c, o) →
      (condPassed c s.cpsr = true → Branches i s (BitVec.ofInt 32 (cur.toNat + 4 + 2 * o.toInt))) ∧
      (condPassed c s.cpsr = false → exec i s = .next s)) ∧
    ∀ o : BitVec 11,
      Branches (.tB o) s (BitVec.ofInt 32 (cur.toNat + 4 + 2 * o.toInt)) ∧
      Computes (.tBlFirst o) s (some 14#4) (BitVec.ofInt 32 (cur.toNat + 4 + 2 ^ 12 * o.toInt)) s.cpsr 0 ∧
      Ends (.tBlSecond o) s fun t =>
        t.pc = (slot s 14#4 + BitVec.ofNat 32 (2 * o.toNat)) &&& ~~~1#32 ∧ t.wrotePc = true ∧
        Registers s t (written s 14#4 ((cur + 2#32) ||| 1#32)) ∧ t.cpsr = s.cpsr ∧ Untouched s t ∧ t.stepCost = s.stepCost

/-! ## Exceptions -/

/-- R505, with the vectors, modes and link values of R501, for the classes R505 gives a link value (Undefined, SWI, IRQ, FIQ):
what an entry writes, and that it writes nothing else. -/
def Obligations.ExceptionEntry : Prop :=
  ∀ cls vector b setF link ret s, classRow cls = some (vector, b, setF, link) →
    let t := enterException cls ret s
    Enters s t b vector ret link setF ∧ t.plat = s.plat ∧ t.wrotePc = s.wrotePc ∧
    t.stepCost = s.stepCost + Config.excEntryCost cls + Config.refillCost vector false

/-- SWI, UND, the coprocessor rows and their THUMB counterparts (R310 to R317, R435, R438, R510, R511): the entry with `ret` the
next instruction's address, and nothing else; with a failed condition nothing at all. The entry's cost includes its refill, and no
other is owed (R157). Internal cycles: R575's defaults, the model's choice (log 33). -/
def Obligations.ExceptionInstructions : Prop :=
  ∀ s i c cls, raised i = some (c, cls) →
    (condPassed c s.cpsr = true → Ends i s fun t =>
      (cls = .swi → Enters s t .svc 0x00000008#32 s.pc 0#32 false) ∧
      (cls = .undefined → Enters s t .und 0x00000004#32 s.pc 0#32 false) ∧ t.plat = s.plat ∧ t.wrotePc = s.wrotePc ∧
      t.stepCost = s.stepCost + Config.excEntryCost cls + Config.refillCost t.pc false) ∧
    (condPassed c s.cpsr = false → exec i s = .next s)

/-- R508: the poll. With no line active nothing happens; with one the core wakes, and enters the interrupt if I is 0, at the entry's
cost (R157). -/
def Obligations.InterruptPoll : Prop :=
  ∀ s,
    ((∀ p ∈ s.plat.periphs, p.level = false) → boundaryCheck s = s) ∧
    ((∃ p ∈ s.plat.periphs, p.level = true) →
      (s.cpsr.i = true → boundaryCheck s = { s with halted := false }) ∧
      (s.cpsr.i = false →
        Enters { s with halted := false } (boundaryCheck s) .irq 0x00000018#32 s.pc 4#32 false ∧
        (boundaryCheck s).plat = s.plat ∧ (boundaryCheck s).wrotePc = s.wrotePc ∧
        (boundaryCheck s).stepCost = s.stepCost + Config.excEntryCost .irq + Config.refillCost 0x00000018#32 false))

/-- R161, R507: at the end of a step whose instruction raised an exception the interrupt is not taken, whatever the line. -/
def Obligations.RaisedBeforeInterrupt : Prop :=
  ∀ s t i c cls, raised i = some (c, cls) → condPassed c s.cpsr = true → exec i s = .next t →
    let u := boundaryCheck (chargeRefill t)
    u.cpsr = t.cpsr ∧ u.pc = t.pc ∧ u.regs = t.regs ∧ SavedKept t u ∧ (u.cpsr.mode = .svc ∨ u.cpsr.mode = .und)

/-- R506, R517: `MOVS pc, lr` after SWI or Undefined, and `SUBS pc, lr, #4` after an interrupt, bring back the CPSR and pc of the
moment of entry, whatever the handler did, if the mode, its r14 and its SPSR are as the entry left them. -/
def Obligations.ReturnUndoesEntry : Prop :=
  ∀ s u cls i, alignPc s.cpsr.t s.pc = s.pc →
    (cls = .swi ∨ cls = .undefined) ∧
        i = .movReg { cond := .al, s := true, rn := 0#4, rd := 15#4, shiftImm := 0#5, type := .lsl, rm := 14#4 } ∨
      cls = .irq ∧ i = .subImm { cond := .al, s := true, rn := 14#4, rd := 15#4, rotate := 0#4, imm8 := 4#8 } →
    let e := enterException cls s.pc s
    u.cpsr.mode = e.cpsr.mode → slot u 14#4 = slot e 14#4 → (∀ b, b.mode = e.cpsr.mode → u.spsr b = e.spsr b) →
    Ends i u fun t => t.cpsr = s.cpsr ∧ t.pc = s.pc

/-! ## Loads and stores -/

/-- R260, R271: the effective address and the base written back, for each form. -/
def Obligations.TransferAddresses : Prop :=
  ∀ s,
    let off (u : Bool) (base x : Word) : Word := BitVec.ofInt 32 (if u then base.toNat + x.toNat else base.toNat - x.toNat)
    (∀ f : SdtImmPre, let a := off f.u (readArm f.rn s) (f.imm12.setWidth 32); addrSdtImmPre f s = ⟨a, a, f.w⟩) ∧
    (∀ f : SdtImmPost,
      addrSdtImmPost f s = ⟨readArm f.rn s, off f.u (readArm f.rn s) (f.imm12.setWidth 32), true⟩) ∧
    (∀ f : SdtRegPre,
      let a := off f.u (readArm f.rn s) (shiftImm f.type f.shiftImm (readArm f.rm s) s.cpsr.c).1
      addrSdtRegPre f s = ⟨a, a, f.w⟩) ∧
    (∀ f : SdtRegPost,
      addrSdtRegPost f s =
        ⟨readArm f.rn s, off f.u (readArm f.rn s) (shiftImm f.type f.shiftImm (readArm f.rm s) s.cpsr.c).1, true⟩) ∧
    (∀ f : HsReg,
      let a := off f.u (readArm f.rn s) (readArm f.rm s)
      addrHsReg f s = if f.p then ⟨a, a, f.w⟩ else ⟨readArm f.rn s, a, true⟩) ∧
    ∀ f : HsImm,
      let a := off f.u (readArm f.rn s) (BitVec.ofNat 32 (f.immH.toNat * 16 + f.immL.toNat))
      addrHsImm f s = if f.p then ⟨a, a, f.w⟩ else ⟨readArm f.rn s, a, true⟩

/-- R68, R69: the value each load gives at every address, byte by byte, from one access. Plain memory gives the bytes that stand
there and stays as it is. -/
def Obligations.LoadValues : Prop :=
  ∀ k ea s,
    let x := loadAt k ea s
    let a := loadAccess k ea
    x.1 = loaded s k ea ∧ (Unwatched s a.addr a.width → x.1 = loadedValue s.mem k ea) ∧
      x.2 = asked s a.addr a.width ∧ OneRead s x.2 a.addr a.width ∧ x.2.regs = s.regs ∧ x.2.cpsr = s.cpsr ∧
      x.2.stepCost = s.stepCost + accessCycles s (readRequest a.addr a.width)

/-- The 18 ARM load forms (R260 to R268, R271, R273 to R275) complete, for every register combination: the value goes to `Rd`, which
wins over the base written back to `Rn`; slot 15 as either is a branch; no flag and no status changes, and no byte of memory but
registers of a device that is read. Combinations of U16, U17 and U22 run in the order of R265 (log 14). Internal cycles: R575's
defaults, the model's choice (log 33). -/
def Obligations.ArmLoads : Prop :=
  ∀ s i k f, armLoad i = some (k, f) → condPassed f.cond s.cpsr = true →
    let m := f.addr s
    let v := loaded s k m.ea
    let a := loadAccess k m.ea
    Ends i s fun t =>
      Registers s t (fun r => if r = f.rd then v else if m.writeback = true ∧ r = f.rn then m.offAddr else slot s r) ∧
      t.pc = (if f.rd = 15#4 then alignPc s.cpsr.t v
        else if m.writeback = true ∧ f.rn = 15#4 then alignPc s.cpsr.t m.offAddr else s.pc) ∧
      t.wrotePc = pcMark s (f.rd = 15#4 ∨ m.writeback = true ∧ f.rn = 15#4) ∧
      t.cpsr = s.cpsr ∧ SavedKept s t ∧ OneRead s t a.addr a.width ∧ t.halted = s.halted ∧ t.budget = s.budget ∧
      t.stepCost = s.stepCost + accessCycles s (readRequest a.addr a.width) + 1

/-- The 14 ARM store forms (R260 to R266, R269 to R272) complete, for every register combination: the bytes of `Rd` (register 15:
`cur + 12`) stand at the aligned effective address, every other byte but registers of a device that is written reads as before, only
the base may change, and the halted bit is set exactly when the platform and the mode ask for it (R83, R454). Combinations of U16,
U17 and U22 run in the order of R265 (log 14). Internal cycles: R575's defaults, the model's choice (log 33). -/
def Obligations.ArmStores : Prop :=
  ∀ s i w f, armStore i = some (w, f) → condPassed f.cond s.cpsr = true →
    let m := f.addr s
    let v := if f.rd = 15#4 then s.pc + 8#32 else slot s f.rd
    Ends i s fun t =>
      Stored s t (storeAddr w m.ea) w v ∧
      Registers s t (fun r => if m.writeback = true ∧ r = f.rn then m.offAddr else slot s r) ∧
      t.pc = (if m.writeback = true ∧ f.rn = 15#4 then alignPc s.cpsr.t m.offAddr else s.pc) ∧
      t.wrotePc = pcMark s (m.writeback = true ∧ f.rn = 15#4) ∧
      t.cpsr = s.cpsr ∧ SavedKept s t ∧ t.halted = (s.halted || haltAsked s (storeAddr w m.ea) w v) ∧ t.budget = s.budget ∧
      t.stepCost = s.stepCost + accessCycles s (writeRequest (storeAddr w m.ea) w v)

/-- SWP and SWPB (R290, R291, R73): the loaded value goes to `Rd`, the old `Rm` to memory, by a read and a write at one address.
Combinations of U18 run as written (log 14). Internal cycles: R575's defaults, the model's choice (log 33). -/
def Obligations.Swaps : Prop :=
  ∀ (f : SwpFields) s, condPassed f.cond s.cpsr = true →
    let ea := readArm f.rn s
    let done (i : Instr) (k : LoadKind) (w : Width) : Prop :=
      let v := loaded s k ea
      let a := storeAddr w ea
      let x := readArm f.rm s
      let u := asked s a w
      OneRead s u a w ∧ Ends i s fun t =>
        Stored u t a w x ∧ Registers s t (written s f.rd v) ∧ t.pc = pcWritten s f.rd v ∧
        t.wrotePc = pcMark s (f.rd = 15#4) ∧ t.cpsr = s.cpsr ∧
        SavedKept s t ∧ t.halted = (s.halted || haltAsked u a w x) ∧ t.budget = s.budget ∧
        t.stepCost = s.stepCost + accessCycles s (readRequest a w) + accessCycles u (writeRequest a w x) + 1
    done (.swp f) .word .word ∧ done (.swpb f) .byte .byte

/-- LDM, form 1 (R280 to R283, R71), with a register in the list: the words, ascending from `start`, go to the listed slots, which
win over the written-back base; slot 15 is a branch; nothing else changes, but registers of devices that are read. A base in the
list runs as R282 says; a base of slot 15 (U14) is read and written back as any other: the model's choice (log 16). Internal cycles:
R575's defaults, the model's choice (log 33). -/
def Obligations.LoadMultiple : Prop :=
  ∀ (f : BdtFields) s, condPassed f.cond s.cpsr = true → f.list ≠ 0#16 →
    let base := readArm f.rn s
    let v := loadedSlot s f.list (startOf f.p f.u base (size f.list))
    let wb := backOf f.u base (size f.list)
    Ends (.ldm f) s fun t =>
      ReadBlock s t f.list (startOf f.p f.u base (size f.list)) ∧
      Registers s t (fun r => if inSlots f.list r then v r else if f.w = true ∧ r = f.rn then wb else slot s r) ∧
      t.pc = (if inSlots f.list 15#4 then alignPc s.cpsr.t (v 15#4)
        else if f.w = true ∧ f.rn = 15#4 then alignPc s.cpsr.t wb else s.pc) ∧
      t.wrotePc = pcMark s (inSlots f.list 15#4 = true ∨ f.w = true ∧ f.rn = 15#4) ∧
      t.cpsr = s.cpsr ∧ SavedKept s t ∧ t.halted = s.halted ∧ t.budget = s.budget

/-- STM, form 1 (R280 to R282, R284, R71), with a register in the list: the listed slots' words stand ascending from `start`; slot
15 is stored as `cur + 12`; a written-back base that is not the lowest in the list is stored as written back; every other byte reads
as before, but registers of devices that are written. A base of slot 15 (U14) is read and written back as any other: the model's
choice (log 16). Internal cycles: R575's defaults, the model's choice (log 33). -/
def Obligations.StoreMultiple : Prop :=
  ∀ (f : BdtFields) s, condPassed f.cond s.cpsr = true → f.list ≠ 0#16 →
    let base := readArm f.rn s
    let wb := backOf f.u base (size f.list)
    let val (r : Reg) : Word :=
      if r = 15#4 then s.pc + 8#32
      else if f.w = true ∧ r = f.rn ∧ rank f.list r.toNat ≠ 0 then wb else slot s r
    Ends (.stm f) s fun t =>
      StoredBlock s t f.list (startOf f.p f.u base (size f.list)) val ∧
      Registers s t (fun r => if f.w = true ∧ r = f.rn then wb else slot s r) ∧
      t.pc = (if f.w = true ∧ f.rn = 15#4 then alignPc s.cpsr.t wb else s.pc) ∧
      t.wrotePc = pcMark s (f.w = true ∧ f.rn = 15#4) ∧
      t.cpsr = s.cpsr ∧ SavedKept s t ∧ t.budget = s.budget

/-- The user-bank forms (R285, R287), without write-back and with a register in the list: LDM writes the User registers of the
listed slots and no other, STM stores them; the base comes from the current mode's register. A base of slot 15 (U14) is read as any
other operand: the model's choice (log 16). Internal cycles: R575's defaults, the model's choice (log 33). -/
def Obligations.UserBankTransfers : Prop :=
  (∀ (f : BdtLowFields) s, condPassed f.cond s.cpsr = true → f.list ≠ 0#15 → f.w = false →
    let list := f.list.setWidth 16
    let start := startOf f.p f.u (readArm f.rn s) (size list)
    let v := loadedSlot s list start
    Ends (.ldmUser f) s fun t =>
      ReadBlock s t list start ∧
      (∀ r, inSlots list r = true → t.phys (physReg .usr r) = v r) ∧
      (∀ p, (∀ r, inSlots list r = true → p ≠ physReg .usr r) → t.phys p = s.phys p) ∧
      t.pc = s.pc ∧ t.wrotePc = s.wrotePc ∧ t.cpsr = s.cpsr ∧ SavedKept s t ∧ t.halted = s.halted ∧ t.budget = s.budget) ∧
  ∀ (f : BdtFields) s, condPassed f.cond s.cpsr = true → f.list ≠ 0#16 → f.w = false →
    let val (r : Reg) : Word := if r = 15#4 then s.pc + 8#32 else s.phys (physReg .usr r)
    Ends (.stmUser f) s fun t =>
      StoredBlock s t f.list (startOf f.p f.u (readArm f.rn s) (size f.list)) val ∧ Registers s t (slot s) ∧
      t.pc = s.pc ∧ t.wrotePc = s.wrotePc ∧ t.cpsr = s.cpsr ∧ SavedKept s t ∧ t.budget = s.budget

/-- LDM, form 3 (R286, R517): the slots below 15 in the bank of the mode before, then the CPSR from its SPSR, then pc from the word
loaded last, aligned for the restored state. An illegal mode number in the SPSR faults (U1). The model's choices: in User and System
mode the CPSR stays and pc is still written (U3, log 17); a base of slot 15 (U14) is read and written back as any other (log 16).
Internal cycles: R575's defaults, the model's choice (log 33). -/
def Obligations.LoadMultipleReturn : Prop :=
  ∀ (f : BdtLowFields) s, condPassed f.cond s.cpsr = true →
    let list := 1#1 ++ f.list
    let base := readArm f.rn s
    let start := startOf f.p f.u base (size list)
    let v := loadedSlot s list start
    let wb := backOf f.u base (size list)
    let kept (t : State) : Prop :=
      ReadBlock s t list start ∧
      Registers s t (fun r => if inSlots list r then v r else if f.w = true ∧ r = f.rn then wb else slot s r) ∧
      t.wrotePc = true ∧ SavedKept s t ∧ t.halted = s.halted ∧ t.budget = s.budget
    (excModeOf s.cpsr.mode = none → Ends (.ldmReturn f) s fun t =>
      t.cpsr = s.cpsr ∧ t.pc = alignPc s.cpsr.t (v 15#4) ∧ kept t) ∧
    ∀ b, excModeOf s.cpsr.mode = some b →
      let p := s.spsr b
      (∀ m, modeOfBits p.m = some m → Ends (.ldmReturn f) s fun t =>
        t.cpsr = { n := p.n, z := p.z, c := p.c, v := p.v, i := p.i, f := p.f, t := p.t, mode := m } ∧
        t.pc = alignPc p.t (v 15#4) ∧ kept t) ∧
      (modeOfBits p.m = none → exec (.ldmReturn f) s = .fault .illegalMode)

/-- The only stops: an empty register list (R288, U13, U24), a user-bank transfer with write-back (R285, R287, U15), and an illegal
mode number that would reach the CPSR (R31, U1). Every other instruction goes on in every state. -/
def Obligations.StopsAreNamed : Prop :=
  ∀ i s,
    (exec i s = .refused .emptyRegisterList ↔
      (∃ f, (i = .ldm f ∨ i = .stm f ∨ i = .stmUser f) ∧ condPassed f.cond s.cpsr = true ∧ f.list = 0#16) ∨
      (∃ f, i = .ldmUser f ∧ condPassed f.cond s.cpsr = true ∧ f.list = 0#15) ∨
      i = .tPush false 0#8 ∨ i = .tPop false 0#8 ∨ ∃ rb, i = .tStmia rb 0#8 ∨ i = .tLdmia rb 0#8) ∧
    (exec i s = .refused .userBankWriteback ↔
      (∃ f, i = .ldmUser f ∧ condPassed f.cond s.cpsr = true ∧ f.list ≠ 0#15 ∧ f.w = true) ∨
      ∃ f, i = .stmUser f ∧ condPassed f.cond s.cpsr = true ∧ f.list ≠ 0#16 ∧ f.w = true) ∧
    (∀ m, exec i s ≠ .refused (.notModelled m)) ∧
    (exec i s = .fault .illegalMode → i.returns = true ∨ i.writesStatus = true)

/-! ## THUMB -/

/-- THUMB additions, subtractions and compares (R335 to R338, R341 to R343, R350, R351, R354 to R356): they complete with the exact
sum modulo 2^32 in `Rd` (nowhere for a compare), all four flags from it, and nothing else changed. Internal cycles: R575's defaults,
the model's choice (log 33). -/
def Obligations.ThumbArithmetic : Prop :=
  ∀ s i rd a b op, thumbSum s i = some (rd, a, b, op) →
    Computes i s (rd.map LowReg.slot) (op.result s.cpsr a b) (op.flags s.cpsr a b) 0

/-- THUMB shifts, moves and bitwise operations (R330 to R332, R340, R345 to R349, R352, R353, R357, R359, R360), and MUL (R358):
they complete with the result in `Rd`, N and Z from it, C from the shifter where there is one (for MUL: some bit), V as it was.
Internal cycles: R575's defaults, the model's choice (log 33). -/
def Obligations.ThumbLogical : Prop :=
  (∀ s i rd x cycles, thumbLogic s i = some (rd, x, cycles) →
    Computes i s (rd.map LowReg.slot) x.1 (logicalFlags s.cpsr x.1 x.2) cycles) ∧
  ∀ s rs rd,
    let r := BitVec.ofNat 32 ((slot s rd.slot).toNat * (slot s rs.slot).toNat)
    ∃ c, Computes (.tMul rs rd) s (some rd.slot) r (logicalFlags s.cpsr r c) (signedCount (slot s rd.slot))

/-- Format 5 and the address forms (R365 to R367, R375 to R378): ADD and MOV of any two slots set no flag, and slot 15 as the
destination is a branch; CMP sets all four flags; ADD to pc or sp takes the word-scaled immediate. Two low registers (U20) run as
any other two: the model's choice (log 17). Internal cycles: R575's defaults, the model's choice (log 33). -/
def Obligations.ThumbHighAndAddress : Prop :=
  ∀ s,
    (∀ h1 h2 rs rd,
      let d := highSlot h1 rd
      let a := readThumb d s
      let b := readThumb (highSlot h2 rs) s
      Computes (.tAddHi h1 h2 rs rd) s (some d) (BitVec.ofNat 32 (a.toNat + b.toNat)) s.cpsr 0 ∧
      Computes (.tMovHi h1 h2 rs rd) s (some d) b s.cpsr 0 ∧
      Computes (.tCmpHi h1 h2 rs rd) s none 0#32 (minus.flags s.cpsr a b) 0) ∧
    (∀ (rd : LowReg) (word8 : BitVec 8),
      Computes (.tAddPc rd word8) s (some rd.slot)
        (BitVec.ofNat 32 (((s.pc + 2#32) &&& ~~~2#32).toNat + 4 * word8.toNat)) s.cpsr 0 ∧
      Computes (.tAddSp rd word8) s (some rd.slot) (BitVec.ofNat 32 ((slot s 13#4).toNat + 4 * word8.toNat)) s.cpsr 0) ∧
    ∀ sword7 : BitVec 7,
      Computes (.tIncSp sword7) s (some 13#4) (BitVec.ofInt 32 ((slot s 13#4).toNat + 4 * sword7.toNat)) s.cpsr 0 ∧
      Computes (.tDecSp sword7) s (some 13#4) (BitVec.ofInt 32 ((slot s 13#4).toNat - 4 * sword7.toNat)) s.cpsr 0

/-- The THUMB loads and stores of formats 6 to 11 (R385, R390 to R406) complete. A load gives `Rd` the value and changes nothing
else the program can see, but registers of a device that is read. A store puts the bytes of `Rd` at the aligned effective address;
every other byte but registers of a device that is written reads as before, no register changes, and the halted bit is set exactly
when the platform and the mode ask for it. Internal cycles: R575's defaults, the model's choice (log 33). -/
def Obligations.ThumbTransfers : Prop :=
  (∀ s i k ea rd, thumbLoadForm s i = some (k, ea, rd) →
    let v := loaded s k ea
    let a := loadAccess k ea
    Ends i s fun t =>
      Registers s t (written s rd.slot v) ∧ t.pc = s.pc ∧ t.wrotePc = s.wrotePc ∧ t.cpsr = s.cpsr ∧ SavedKept s t ∧
      OneRead s t a.addr a.width ∧
      t.halted = s.halted ∧ t.budget = s.budget ∧
      t.stepCost = s.stepCost + accessCycles s (readRequest a.addr a.width) + 1) ∧
  ∀ s i w ea rd, thumbStoreForm s i = some (w, ea, rd) →
    let a := storeAddr w ea
    let v := slot s rd.slot
    Ends i s fun t =>
      Stored s t a w v ∧ Registers s t (slot s) ∧ t.pc = s.pc ∧ t.wrotePc = s.wrotePc ∧ t.cpsr = s.cpsr ∧ SavedKept s t ∧
      t.halted = (s.halted || haltAsked s a w v) ∧ t.budget = s.budget ∧
      t.stepCost = s.stepCost + accessCycles s (writeRequest a w v)

/-- PUSH, POP, STMIA and LDMIA (R410 to R413), with a register in the list: which words go where, what is written back, and that no
other register and no other byte changes, but registers of devices that are touched. A base in the list (U14) runs as R412 and R413
say (log 16). Internal cycles: R575's defaults, the model's choice (log 33). -/
def Obligations.ThumbBlocks : Prop :=
  ∀ s,
    let sp := slot s 13#4
    let same (t : State) : Prop := t.cpsr = s.cpsr ∧ SavedKept s t ∧ t.budget = s.budget
    let plus4 (base : Word) (n : Nat) : Word := base + BitVec.ofNat 32 (4 * n)
    (∀ r rlist, pushList r rlist ≠ 0#16 →
      let list := pushList r rlist
      let start := sp - BitVec.ofNat 32 (4 * size list)
      Ends (.tPush r rlist) s fun t =>
        StoredBlock s t list start (slot s) ∧ Registers s t (written s 13#4 start) ∧ t.pc = s.pc ∧
          t.wrotePc = s.wrotePc ∧ same t) ∧
    (∀ r rlist, popList r rlist ≠ 0#16 →
      let list := popList r rlist
      let v := loadedSlot s list sp
      Ends (.tPop r rlist) s fun t =>
        ReadBlock s t list sp ∧
        Registers s t (fun k => if inSlots list k then v k else if k = 13#4 then plus4 sp (size list) else slot s k) ∧
        t.pc = (if r then alignPc s.cpsr.t (v 15#4) else s.pc) ∧ t.wrotePc = pcMark s (r = true) ∧ t.halted = s.halted ∧ same t) ∧
    ∀ (rb : LowReg) (rlist : BitVec 8), rlist ≠ 0#8 →
      let list := rlist.setWidth 16
      let base := slot s rb.slot
      let wb := plus4 base (size list)
      let v := loadedSlot s list base
      (Ends (.tStmia rb rlist) s fun t =>
        StoredBlock s t list base (fun k => if k = rb.slot ∧ rank list k.toNat ≠ 0 then wb else slot s k) ∧
        Registers s t (written s rb.slot wb) ∧ t.pc = s.pc ∧ t.wrotePc = s.wrotePc ∧ same t) ∧
      Ends (.tLdmia rb rlist) s fun t =>
        ReadBlock s t list base ∧
        Registers s t (fun k => if inSlots list k then v k else if k = rb.slot then wb else slot s k) ∧ t.pc = s.pc ∧
        t.wrotePc = s.wrotePc ∧ t.halted = s.halted ∧ same t

/-! ## Rules about the whole machine -/

/-- R34, R36, R37: only BX, an exception and a return write T; only an exception, a return and MSR write I, F or the mode; an SPSR
is written only by an exception, and by MSR in its own mode. -/
def Obligations.OnlyTheseWriteStatus : Prop :=
  ∀ i s t, exec i s = .next t →
    (i.exchanges = false → i.raises = false → i.returns = false → t.cpsr.t = s.cpsr.t) ∧
    (i.raises = false → i.returns = false → i.writesStatus = false →
      t.cpsr.i = s.cpsr.i ∧ t.cpsr.f = s.cpsr.f ∧ t.cpsr.mode = s.cpsr.mode) ∧
    ∀ b, i.raises = false → (i.writesStatus = true → excModeOf s.cpsr.mode ≠ some b) → t.spsr b = s.spsr b

/-- R32: a load, a store, a branch, and data processing or a multiply with S clear never change a flag. -/
def Obligations.OnlyTheseWriteFlags : Prop :=
  ∀ i s t, exec i s = .next t → writesFlags i = false →
    t.cpsr.n = s.cpsr.n ∧ t.cpsr.z = s.cpsr.z ∧ t.cpsr.c = s.cpsr.c ∧ t.cpsr.v = s.cpsr.v

/-- R37, R521: User mode is left only through a vector: after any step from User mode the mode is User, or the step entered the
software interrupt, undefined-instruction or interrupt exception, which saved User mode and masked interrupts. -/
def Obligations.UserModeIsLeftOnlyThroughAVector : Prop :=
  ∀ s t, s.cpsr.mode = .usr → step s = .next t → t.cpsr.mode ≠ .usr →
    t.cpsr.t = false ∧ t.cpsr.i = true ∧
      ((t.cpsr.mode = .svc ∧ t.pc = 0x00000008#32 ∧ t.spsrSvc.m = 0b10000#5) ∨
        (t.cpsr.mode = .und ∧ t.pc = 0x00000004#32 ∧ t.spsrUnd.m = 0b10000#5) ∨
        (t.cpsr.mode = .irq ∧ t.pc = 0x00000018#32 ∧ t.spsrIrq.m = 0b10000#5))

/-- R25: no instruction changes a register of another mode's bank, but the User bank by the user-bank LDM and r14 of the entered
mode by an exception. -/
def Obligations.OtherBanksUntouched : Prop :=
  ∀ i s t p, exec i s = .next t → (∀ r, r ≠ 15#4 → p ≠ physReg s.cpsr.mode r) →
    ((∃ f, i = .ldmUser f) → ∀ r, r ≠ 15#4 → p ≠ physReg .usr r) →
    (i.raises = true → p ≠ .r14svc ∧ p ≠ .r14und) → t.phys p = s.phys p

/-- R66: in plain memory bytes lie little-endian, and a read of another width sees exactly those bytes, where all bits may be
written. -/
def Obligations.LittleEndianMemory : Prop :=
  ∀ s (a v : Word), s.mem.wf = true → Unwatched s a .word →
    (∀ b ∈ byteAddrs a .word, maskAt s.plat.writeMasks b.toNat = 0xFF#8) →
    (a.toNat % 4 = 0 →
      let t := memWrite a .word v s
      (byteAt t.mem a = v.extractLsb' 0 8 ∧ byteAt t.mem (a + 1#32) = v.extractLsb' 8 8 ∧
        byteAt t.mem (a + 2#32) = v.extractLsb' 16 8 ∧ byteAt t.mem (a + 3#32) = v.extractLsb' 24 8) ∧
      (memRead a .word t).1 = v ∧ (memRead a .half t).1.toNat = v.toNat % 2 ^ 16 ∧
      (memRead (a + 2#32) .half t).1.toNat = v.toNat / 2 ^ 16 ∧ (memRead a .byte t).1.toNat = v.toNat % 2 ^ 8 ∧
      (memRead (a + 1#32) .byte t).1.toNat = v.toNat / 2 ^ 8 % 2 ^ 8) ∧
    (a.toNat % 2 = 0 →
      let t := memWrite a .half v s
      (byteAt t.mem a = v.extractLsb' 0 8 ∧ byteAt t.mem (a + 1#32) = v.extractLsb' 8 8) ∧
      (memRead a .half t).1.toNat = v.toNat % 2 ^ 16)

/-- R63, R74, R83, R454: a store of the core reaches each byte of plain memory through its write mask and no other byte, and halts
the core exactly when the platform asks and the mode is privileged; the rest of the core's state stays. The masks are the model's
data (log 4), and so is what a device does (log 3). -/
def Obligations.StoresThroughMasks : Prop :=
  ∀ s a w v,
    let t := memWrite a w v s
    Stored s t a w v ∧ (s.mem.wf = true → t.mem.wf = true) ∧ t.halted = (s.halted || haltAsked s a w v) ∧
    (Unwatched s a w → haltAsked s a w v = platformAsks s a w v) ∧
    t.regs = s.regs ∧ t.pc = s.pc ∧ t.cpsr = s.cpsr ∧ SavedKept s t ∧ t.budget = s.budget ∧
    t.stepCost = s.stepCost + accessCycles s (writeRequest a w v) ∧
    ∀ mask old new k, (maskedByte mask old new).getLsbD k = if mask.getLsbD k then new.getLsbD k else old.getLsbD k

/-! ## The scheduler -/

/-- R40, R452, R453: what a step costs, at least 1, leaves the budget and is ticked into every peripheral in one call: no cycle is
lost or ticked twice. For an instruction that amount is the step's whole cost, its interrupt entry included. On the halted path it is
`skip` (R455), and an interrupt entered there is not charged (log 19); with no budget left, which `Execute` never lets come, the
remaining budget counts as 1 (log 18). -/
def Obligations.TicksMatchCosts : Prop :=
  ∀ s t, step s = .next t → ∃ n : Nat, 1 ≤ n ∧ t.budget = s.budget - n ∧ elapsed t = (elapsed s).map (· + n) ∧
    (s.halted = false → n = t.stepCost ∧ ∃ u, u.stepCost = n ∧ u.budget = s.budget ∧ elapsed u = elapsed s ∧
      t = { u with budget := s.budget - n }.tick n) ∧
    (s.halted = true → n = skipCycles (leastEvent s.plat.periphs) s.budget)

/-- R455: a halted core skips to the least next event, at least 1 and at most the remaining budget, and every peripheral is ticked
by that much in one call. No instruction is fetched. With no line active the core stays halted, and no register changes; with one
it wakes, and the interrupt is entered if I is 0, else no register changes. -/
def Obligations.HaltedPath : Prop :=
  ∀ s, s.halted = true → 1 ≤ s.budget → ∃ (t : State) (n : Nat), step s = .next t ∧ 1 ≤ n ∧ (n : Int) ≤ s.budget ∧
    t.budget = s.budget - n ∧ t.plat = (s.tick n).plat ∧ t.mem = (s.tick n).mem ∧ elapsed t = (elapsed s).map (· + n) ∧
    t.lastAccess = s.lastAccess ∧
    ((∀ p ∈ s.plat.periphs, p.nextEvent = none) → (n : Int) = s.budget) ∧
    (∀ q m, q ∈ s.plat.periphs → q.nextEvent = some m →
      (∀ p ∈ s.plat.periphs, ∀ k, p.nextEvent = some k → m ≤ k) → n = min (max m 1) s.budget.toNat) ∧
    let same := t.cpsr = s.cpsr ∧ t.regs = s.regs ∧ t.pc = s.pc ∧ SavedKept s t
    ((∀ p ∈ t.plat.periphs, p.level = false) → t.halted = true ∧ same) ∧
    ((∃ p ∈ t.plat.periphs, p.level = true) →
      t.halted = false ∧ (s.cpsr.i = true → same) ∧
      (s.cpsr.i = false →
        Enters { s.tick n with halted := false, budget := s.budget - n } t .irq 0x00000018#32 s.pc 4#32 false))

/-- R456: before its next event a peripheral changes nothing that can be observed, and two ticks up to it are one. -/
def Obligations.NextEventIsALowerBound : Prop :=
  ∀ (p : Peripheral) (m : Memory),
    (∀ j, (∀ k, p.nextEvent = some k → j < k) → (p.tick j m).2 = m ∧ (p.tick j m).1.level = p.level) ∧
    ∀ a b, (∀ k, p.nextEvent = some k → a + b ≤ k) →
      (let x := p.tick a m; x.1.tick b x.2) = p.tick (a + b) m

/-- R450, R460, R462: `Execute` does nothing when the target is not positive; else it ends with the quantum consumed or overspent,
every peripheral ticked by what was consumed; and it ends within as many iterations as the target has cycles. -/
def Obligations.ExecuteConsumesTheQuantum : Prop :=
  ∀ target s,
    (target ≤ 0 → execute target s = .next { s with budget := target }) ∧
    (0 < target → ∀ t, execute target s = .next t →
      t.budget ≤ 0 ∧ elapsed t = (elapsed s).map (· + (target - t.budget).toNat)) ∧
    ∀ k, target.toNat ≤ k → runLoop k { s with budget := target } = execute target s

/-- R459: two quanta, the second with the overspend of the first added, run as one quantum of their sum, where no quantum meets
the halted path (whose skips depend on where the quantum ends). -/
def Obligations.QuantumSplitting : Prop :=
  ∀ a b s t, 0 ≤ a → 0 ≤ b → (∀ k u, runLoop k { s with budget := a + b } = .next u → u.halted = false) →
    execute a s = .next t → execute (b + t.budget) t = execute (a + b) s
end

