-- ==== Sys2Proof/Laws/Memory.lean ====
section
/-! SUPPORT. Memory: reading after writing, the canonical form and what keeps it, what a store leaves alone. -/

namespace Sys2Proof.Machine

/-! ## One byte -/

theorem Memory.read_write_same (m : Memory) (a : Nat) (b : Byte) (h : m.wf = true) : (m.write a b).read a = b := by
  induction m with
  | nil =>
    simp only [Memory.write]
    split
    · next hb => simp [Memory.read, hb]
    · simp [Memory.read]
  | cons c m ih =>
    obtain ⟨k, x⟩ := c
    simp only [Memory.wf, Bool.and_eq_true, List.all_eq_true, decide_eq_true_eq] at h
    simp only [Memory.write]
    have notIn : ∀ m' : Memory, (∀ c ∈ m', k < c.1) → ∀ j ≤ k, m'.read j = Memory.unlisted := by
      intro m' hm j hj
      induction m' with
      | nil => rfl
      | cons d m' ih' =>
        have := hm d (by simp)
        simp only [Memory.read]
        rw [if_neg (by omega)]
        exact ih' fun c hc => hm c (by simp [hc])
    split
    · next hk =>
      split
      · next hb => rw [notIn m h.1.2 a (by omega), hb]
      · simp [Memory.read]
    · split
      · split
        · next hb =>
          rw [Memory.read, if_neg (by omega), notIn m h.1.2 a (by omega), hb]
        · simp [Memory.read]
      · rw [Memory.read, if_neg (by omega), ih h.2]

theorem Memory.read_write_ne (m : Memory) {a c : Nat} (b : Byte) (h : c ≠ a) : (m.write a b).read c = m.read c := by
  induction m with
  | nil =>
    simp only [Memory.write]
    split
    · rfl
    · simp [Memory.read, Ne.symm h]
  | cons d m ih =>
    obtain ⟨k, x⟩ := d
    simp only [Memory.write]
    split
    · next hk =>
      split
      · simp [Memory.read, show ¬k = c by omega]
      · simp [Memory.read, show ¬a = c by omega, show ¬k = c by omega]
    · split
      · split
        · rfl
        · simp [Memory.read, show ¬a = c by omega]
      · simp only [Memory.read, ih]

theorem Memory.all_write (m : Memory) (a k : Nat) (b : Byte) (hk : k < a) (h : m.all (fun c => k < c.1) = true) :
    (m.write a b).all (fun c => k < c.1) = true := by
  induction m with
  | nil =>
    simp only [Memory.write]
    split <;> simp [hk]
  | cons d m ih =>
    obtain ⟨j, x⟩ := d
    simp only [List.all_cons, Bool.and_eq_true, decide_eq_true_eq] at h
    simp only [Memory.write]
    split
    · split
      · exact h.2
      · simpa [hk] using h.2
    · split
      · split
        · simpa [h.1] using h.2
        · simpa [hk, h.1] using h.2
      · simp [h.1, ih h.2]

theorem Memory.wf_write (m : Memory) (a : Nat) (b : Byte) (ha : a < 2 ^ 32) (h : m.wf = true) : (m.write a b).wf = true := by
  induction m with
  | nil =>
    simp only [Memory.write]
    split
    · rfl
    · next hb => simpa [Memory.wf, hb] using ha
  | cons c m ih =>
    obtain ⟨k, x⟩ := c
    have h' := h
    simp only [Memory.wf, Bool.and_eq_true, List.all_eq_true, decide_eq_true_eq, bne_iff_ne] at h'
    obtain ⟨⟨⟨hx, hk⟩, hall⟩, hm⟩ := h'
    simp only [Memory.write]
    split
    · next hka =>
      split
      · exact hm
      · next hb =>
        simp only [Memory.wf, Bool.and_eq_true, List.all_eq_true, decide_eq_true_eq, bne_iff_ne]
        exact ⟨⟨⟨hb, ha⟩, fun c hc => by have := hall c hc; omega⟩, hm⟩
    · split
      · next hlt =>
        split
        · exact h
        · next hb =>
          simp only [Memory.wf, Bool.and_eq_true, List.all_eq_true, decide_eq_true_eq, bne_iff_ne, List.all_cons]
          exact ⟨⟨⟨hb, ha⟩, hlt, fun c hc => by have := hall c hc; omega⟩, ⟨⟨hx, hk⟩, hall⟩, hm⟩
      · simp only [Memory.wf, Bool.and_eq_true, decide_eq_true_eq, bne_iff_ne]
        exact ⟨⟨⟨hx, hk⟩, Memory.all_write m a k b (by omega) (by simpa using hall)⟩, ih hm⟩

/-- Where nothing is listed below an address, it reads as unlisted. -/
theorem Memory.read_below (m : Memory) (a : Nat) (h : ∀ c ∈ m, a < c.1) : m.read a = Memory.unlisted := by
  induction m with
  | nil => rfl
  | cons c m ih =>
    have := h c (by simp)
    rw [show c = (c.1, c.2) from rfl, Memory.read, if_neg (by omega)]
    exact ih fun d hd => h d (by simp [hd])

/-- A canonical memory lists nothing above the 2^32 bytes. -/
theorem Memory.read_above (m : Memory) (h : m.wf = true) {a : Nat} (ha : 2 ^ 32 ≤ a) : m.read a = Memory.unlisted := by
  induction m with
  | nil => rfl
  | cons c m ih =>
    simp only [Memory.wf, Bool.and_eq_true, decide_eq_true_eq] at h
    rw [Memory.read, if_neg (by omega)]
    exact ih h.2

/-- Equal memories are equal data: canonical memories that read alike are the same list. -/
theorem Memory.ext_of_wf : ∀ {m n : Memory}, m.wf = true → n.wf = true → (∀ a, m.read a = n.read a) → m = n
  | [], [], _, _, _ => rfl
  | [], (k, x) :: n, _, hn, h => by
    have := h k
    simp only [Memory.wf, Bool.and_eq_true, bne_iff_ne] at hn
    simp only [Memory.read] at this
    exact absurd (by simpa using this.symm) hn.1.1.1
  | (k, x) :: m, [], hm, _, h => by
    have := h k
    simp only [Memory.wf, Bool.and_eq_true, bne_iff_ne] at hm
    simp only [Memory.read] at this
    exact absurd (by simpa using this) hm.1.1.1
  | (k, x) :: m, (j, y) :: n, hm, hn, h => by
    simp only [Memory.wf, Bool.and_eq_true, bne_iff_ne, List.all_eq_true, decide_eq_true_eq] at hm hn
    have hkj : k = j := by
      by_contra hne
      rcases Nat.lt_or_gt_of_ne hne with hlt | hlt
      · have := h k
        rw [Memory.read, if_pos rfl, Memory.read, if_neg (by omega),
          Memory.read_below n k fun c hc => by have := hn.1.2 c hc; omega] at this
        exact hm.1.1.1 this
      · have := h j
        rw [Memory.read, if_neg (by omega), Memory.read_below m j fun c hc => by have := hm.1.2 c hc; omega,
          Memory.read, if_pos rfl] at this
        exact hn.1.1.1 this.symm
    subst hkj
    have hxy : x = y := by simpa [Memory.read] using h k
    subst hxy
    congr 1
    refine Memory.ext_of_wf hm.2 hn.2 fun a => ?_
    by_cases hak : a ≤ k
    · rw [Memory.read_below m a fun c hc => by have := hm.1.2 c hc; omega,
        Memory.read_below n a fun c hc => by have := hn.1.2 c hc; omega]
    · simpa [Memory.read, show ¬k = a by omega] using h a

/-! ## The core's stores -/

theorem Memory.wf_storeByte (masks : List Host.Cell) (m : Memory) (a : Word) (b : Byte) (h : m.wf = true) :
    (m.storeByte masks a b).wf = true :=
  Memory.wf_write m a.toNat _ a.isLt h

theorem Memory.wf_storeBytes (masks : List Host.Cell) (cells : List (Word × Byte)) :
    ∀ m : Memory, m.wf = true → (m.storeBytes masks cells).wf = true := by
  induction cells with
  | nil => exact fun _ h => h
  | cons c rest ih => exact fun m h => ih _ (Memory.wf_storeByte masks m c.1 c.2 h)

theorem Memory.read_storeByte_ne (masks : List Host.Cell) (m : Memory) {a : Word} {n : Nat} (b : Byte) (h : n ≠ a.toNat) :
    (m.storeByte masks a b).read n = m.read n :=
  Memory.read_write_ne m _ h

/-- A store changes no byte but those it stores to. -/
theorem Memory.read_storeBytes_ne (masks : List Host.Cell) (cells : List (Word × Byte)) {n : Nat} :
    ∀ m : Memory, (∀ c ∈ cells, n ≠ c.1.toNat) → (m.storeBytes masks cells).read n = m.read n := by
  induction cells with
  | nil => exact fun _ _ => rfl
  | cons c rest ih =>
    intro m h
    show Memory.read (Memory.storeBytes masks (m.storeByte masks c.1 c.2) rest) n = _
    rw [ih _ fun d hd => h d (by simp [hd]), Memory.read_storeByte_ne masks m c.2 (h c (by simp))]

/-- The bytes a store touches are those of its address and width. -/
theorem mem_zip_byteAddrs {a : Word} {w : Width} {v : Word} {c : Word × Byte}
    (h : c ∈ (byteAddrs a w).zip (valueBytes v w)) : c.1 ∈ byteAddrs a w :=
  (List.of_mem_zip h).1

/-- A store of a width at an address changes no byte outside it. -/
theorem read_store_frame (masks : List Host.Cell) (m : Memory) (a v : Word) (w : Width) (n : Nat)
    (h : n ∉ (byteAddrs a w).map BitVec.toNat) :
    (m.storeBytes masks ((byteAddrs a w).zip (valueBytes v w))).read n = m.read n :=
  Memory.read_storeBytes_ne masks _ m fun _ hc e => h (e ▸ List.mem_map_of_mem (mem_zip_byteAddrs hc))

@[simp] theorem maskAt_nil (a : Nat) : maskAt [] a = BitVec.allOnes 8 := rfl

@[simp] theorem maskedByte_allOnes (old new : Byte) : maskedByte (BitVec.allOnes 8) old new = new := by
  rw [maskedByte, BitVec.not_allOnes, BitVec.and_zero, BitVec.zero_or, BitVec.and_allOnes]

end Sys2Proof.Machine
end

