-- ==== Sys2Proof/Laws/State.lean ====
section
/-! SUPPORT. What each named update of the state does to each field: one lemma per field, so that no proof unfolds a
record update. -/

namespace Sys2Proof.Machine

/-! setPhys -/

@[simp] theorem setPhys_regs (p : PhysReg) (v : Word) (s : State) : (s.setPhys p v).regs = s.regs.set p.index.val v p.index.isLt := rfl
@[simp] theorem setPhys_pc (p : PhysReg) (v : Word) (s : State) : (s.setPhys p v).pc = s.pc := rfl
@[simp] theorem setPhys_cpsr (p : PhysReg) (v : Word) (s : State) : (s.setPhys p v).cpsr = s.cpsr := rfl
@[simp] theorem setPhys_spsrFiq (p : PhysReg) (v : Word) (s : State) : (s.setPhys p v).spsrFiq = s.spsrFiq := rfl
@[simp] theorem setPhys_spsrIrq (p : PhysReg) (v : Word) (s : State) : (s.setPhys p v).spsrIrq = s.spsrIrq := rfl
@[simp] theorem setPhys_spsrSvc (p : PhysReg) (v : Word) (s : State) : (s.setPhys p v).spsrSvc = s.spsrSvc := rfl
@[simp] theorem setPhys_spsrAbt (p : PhysReg) (v : Word) (s : State) : (s.setPhys p v).spsrAbt = s.spsrAbt := rfl
@[simp] theorem setPhys_spsrUnd (p : PhysReg) (v : Word) (s : State) : (s.setPhys p v).spsrUnd = s.spsrUnd := rfl
@[simp] theorem setPhys_halted (p : PhysReg) (v : Word) (s : State) : (s.setPhys p v).halted = s.halted := rfl
@[simp] theorem setPhys_mem (p : PhysReg) (v : Word) (s : State) : (s.setPhys p v).mem = s.mem := rfl
@[simp] theorem setPhys_lastAccess (p : PhysReg) (v : Word) (s : State) : (s.setPhys p v).lastAccess = s.lastAccess := rfl
@[simp] theorem setPhys_plat (p : PhysReg) (v : Word) (s : State) : (s.setPhys p v).plat = s.plat := rfl
@[simp] theorem setPhys_stepCost (p : PhysReg) (v : Word) (s : State) : (s.setPhys p v).stepCost = s.stepCost := rfl
@[simp] theorem setPhys_budget (p : PhysReg) (v : Word) (s : State) : (s.setPhys p v).budget = s.budget := rfl
@[simp] theorem setPhys_wrotePc (p : PhysReg) (v : Word) (s : State) : (s.setPhys p v).wrotePc = s.wrotePc := rfl
@[simp] theorem setPhys_draws (p : PhysReg) (v : Word) (s : State) : (s.setPhys p v).draws = s.draws := rfl

/-! setCpsr -/

@[simp] theorem setCpsr_regs (p : Cpsr) (s : State) : (s.setCpsr p).regs = s.regs := rfl
@[simp] theorem setCpsr_pc (p : Cpsr) (s : State) : (s.setCpsr p).pc = s.pc := rfl
@[simp] theorem setCpsr_cpsr (p : Cpsr) (s : State) : (s.setCpsr p).cpsr = p := rfl
@[simp] theorem setCpsr_spsrFiq (p : Cpsr) (s : State) : (s.setCpsr p).spsrFiq = s.spsrFiq := rfl
@[simp] theorem setCpsr_spsrIrq (p : Cpsr) (s : State) : (s.setCpsr p).spsrIrq = s.spsrIrq := rfl
@[simp] theorem setCpsr_spsrSvc (p : Cpsr) (s : State) : (s.setCpsr p).spsrSvc = s.spsrSvc := rfl
@[simp] theorem setCpsr_spsrAbt (p : Cpsr) (s : State) : (s.setCpsr p).spsrAbt = s.spsrAbt := rfl
@[simp] theorem setCpsr_spsrUnd (p : Cpsr) (s : State) : (s.setCpsr p).spsrUnd = s.spsrUnd := rfl
@[simp] theorem setCpsr_halted (p : Cpsr) (s : State) : (s.setCpsr p).halted = s.halted := rfl
@[simp] theorem setCpsr_mem (p : Cpsr) (s : State) : (s.setCpsr p).mem = s.mem := rfl
@[simp] theorem setCpsr_lastAccess (p : Cpsr) (s : State) : (s.setCpsr p).lastAccess = s.lastAccess := rfl
@[simp] theorem setCpsr_plat (p : Cpsr) (s : State) : (s.setCpsr p).plat = s.plat := rfl
@[simp] theorem setCpsr_stepCost (p : Cpsr) (s : State) : (s.setCpsr p).stepCost = s.stepCost := rfl
@[simp] theorem setCpsr_budget (p : Cpsr) (s : State) : (s.setCpsr p).budget = s.budget := rfl
@[simp] theorem setCpsr_wrotePc (p : Cpsr) (s : State) : (s.setCpsr p).wrotePc = s.wrotePc := rfl
@[simp] theorem setCpsr_draws (p : Cpsr) (s : State) : (s.setCpsr p).draws = s.draws := rfl

/-! setSpsr -/

@[simp] theorem setSpsr_regs (b : ExcMode) (p : Spsr) (s : State) : (s.setSpsr b p).regs = s.regs := by cases b <;> rfl
@[simp] theorem setSpsr_pc (b : ExcMode) (p : Spsr) (s : State) : (s.setSpsr b p).pc = s.pc := by cases b <;> rfl
@[simp] theorem setSpsr_cpsr (b : ExcMode) (p : Spsr) (s : State) : (s.setSpsr b p).cpsr = s.cpsr := by cases b <;> rfl
@[simp] theorem setSpsr_spsrFiq (b : ExcMode) (p : Spsr) (s : State) : (s.setSpsr b p).spsrFiq = if b = .fiq then p else s.spsrFiq := by cases b <;> rfl
@[simp] theorem setSpsr_spsrIrq (b : ExcMode) (p : Spsr) (s : State) : (s.setSpsr b p).spsrIrq = if b = .irq then p else s.spsrIrq := by cases b <;> rfl
@[simp] theorem setSpsr_spsrSvc (b : ExcMode) (p : Spsr) (s : State) : (s.setSpsr b p).spsrSvc = if b = .svc then p else s.spsrSvc := by cases b <;> rfl
@[simp] theorem setSpsr_spsrAbt (b : ExcMode) (p : Spsr) (s : State) : (s.setSpsr b p).spsrAbt = if b = .abt then p else s.spsrAbt := by cases b <;> rfl
@[simp] theorem setSpsr_spsrUnd (b : ExcMode) (p : Spsr) (s : State) : (s.setSpsr b p).spsrUnd = if b = .und then p else s.spsrUnd := by cases b <;> rfl
@[simp] theorem setSpsr_halted (b : ExcMode) (p : Spsr) (s : State) : (s.setSpsr b p).halted = s.halted := by cases b <;> rfl
@[simp] theorem setSpsr_mem (b : ExcMode) (p : Spsr) (s : State) : (s.setSpsr b p).mem = s.mem := by cases b <;> rfl
@[simp] theorem setSpsr_lastAccess (b : ExcMode) (p : Spsr) (s : State) : (s.setSpsr b p).lastAccess = s.lastAccess := by cases b <;> rfl
@[simp] theorem setSpsr_plat (b : ExcMode) (p : Spsr) (s : State) : (s.setSpsr b p).plat = s.plat := by cases b <;> rfl
@[simp] theorem setSpsr_stepCost (b : ExcMode) (p : Spsr) (s : State) : (s.setSpsr b p).stepCost = s.stepCost := by cases b <;> rfl
@[simp] theorem setSpsr_budget (b : ExcMode) (p : Spsr) (s : State) : (s.setSpsr b p).budget = s.budget := by cases b <;> rfl
@[simp] theorem setSpsr_wrotePc (b : ExcMode) (p : Spsr) (s : State) : (s.setSpsr b p).wrotePc = s.wrotePc := by cases b <;> rfl
@[simp] theorem setSpsr_draws (b : ExcMode) (p : Spsr) (s : State) : (s.setSpsr b p).draws = s.draws := by cases b <;> rfl

@[simp] theorem spsr_setSpsr_same (b : ExcMode) (p : Spsr) (s : State) : (s.setSpsr b p).spsr b = p := by cases b <;> rfl
theorem spsr_setSpsr_ne {b c : ExcMode} (h : c ≠ b) (p : Spsr) (s : State) : (s.setSpsr b p).spsr c = s.spsr c := by
  cases b <;> cases c <;> first | rfl | exact absurd rfl h

/-! addCost -/

@[simp] theorem addCost_regs (k : Nat) (s : State) : (s.addCost k).regs = s.regs := rfl
@[simp] theorem addCost_pc (k : Nat) (s : State) : (s.addCost k).pc = s.pc := rfl
@[simp] theorem addCost_cpsr (k : Nat) (s : State) : (s.addCost k).cpsr = s.cpsr := rfl
@[simp] theorem addCost_spsrFiq (k : Nat) (s : State) : (s.addCost k).spsrFiq = s.spsrFiq := rfl
@[simp] theorem addCost_spsrIrq (k : Nat) (s : State) : (s.addCost k).spsrIrq = s.spsrIrq := rfl
@[simp] theorem addCost_spsrSvc (k : Nat) (s : State) : (s.addCost k).spsrSvc = s.spsrSvc := rfl
@[simp] theorem addCost_spsrAbt (k : Nat) (s : State) : (s.addCost k).spsrAbt = s.spsrAbt := rfl
@[simp] theorem addCost_spsrUnd (k : Nat) (s : State) : (s.addCost k).spsrUnd = s.spsrUnd := rfl
@[simp] theorem addCost_halted (k : Nat) (s : State) : (s.addCost k).halted = s.halted := rfl
@[simp] theorem addCost_mem (k : Nat) (s : State) : (s.addCost k).mem = s.mem := rfl
@[simp] theorem addCost_lastAccess (k : Nat) (s : State) : (s.addCost k).lastAccess = s.lastAccess := rfl
@[simp] theorem addCost_plat (k : Nat) (s : State) : (s.addCost k).plat = s.plat := rfl
@[simp] theorem addCost_stepCost (k : Nat) (s : State) : (s.addCost k).stepCost = s.stepCost + k := rfl
@[simp] theorem addCost_budget (k : Nat) (s : State) : (s.addCost k).budget = s.budget := rfl
@[simp] theorem addCost_wrotePc (k : Nat) (s : State) : (s.addCost k).wrotePc = s.wrotePc := rfl
@[simp] theorem addCost_draws (k : Nat) (s : State) : (s.addCost k).draws = s.draws := rfl

/-! charge -/

@[simp] theorem charge_regs (c : CostCategory) (mc : Nat) (s : State) : (s.charge c mc).regs = s.regs := rfl
@[simp] theorem charge_pc (c : CostCategory) (mc : Nat) (s : State) : (s.charge c mc).pc = s.pc := rfl
@[simp] theorem charge_cpsr (c : CostCategory) (mc : Nat) (s : State) : (s.charge c mc).cpsr = s.cpsr := rfl
@[simp] theorem charge_spsrFiq (c : CostCategory) (mc : Nat) (s : State) : (s.charge c mc).spsrFiq = s.spsrFiq := rfl
@[simp] theorem charge_spsrIrq (c : CostCategory) (mc : Nat) (s : State) : (s.charge c mc).spsrIrq = s.spsrIrq := rfl
@[simp] theorem charge_spsrSvc (c : CostCategory) (mc : Nat) (s : State) : (s.charge c mc).spsrSvc = s.spsrSvc := rfl
@[simp] theorem charge_spsrAbt (c : CostCategory) (mc : Nat) (s : State) : (s.charge c mc).spsrAbt = s.spsrAbt := rfl
@[simp] theorem charge_spsrUnd (c : CostCategory) (mc : Nat) (s : State) : (s.charge c mc).spsrUnd = s.spsrUnd := rfl
@[simp] theorem charge_halted (c : CostCategory) (mc : Nat) (s : State) : (s.charge c mc).halted = s.halted := rfl
@[simp] theorem charge_mem (c : CostCategory) (mc : Nat) (s : State) : (s.charge c mc).mem = s.mem := rfl
@[simp] theorem charge_lastAccess (c : CostCategory) (mc : Nat) (s : State) : (s.charge c mc).lastAccess = s.lastAccess := rfl
@[simp] theorem charge_plat (c : CostCategory) (mc : Nat) (s : State) : (s.charge c mc).plat = s.plat := rfl
@[simp] theorem charge_stepCost (c : CostCategory) (mc : Nat) (s : State) : (s.charge c mc).stepCost = s.stepCost + icycles c mc := rfl
@[simp] theorem charge_budget (c : CostCategory) (mc : Nat) (s : State) : (s.charge c mc).budget = s.budget := rfl
@[simp] theorem charge_wrotePc (c : CostCategory) (mc : Nat) (s : State) : (s.charge c mc).wrotePc = s.wrotePc := rfl
@[simp] theorem charge_draws (c : CostCategory) (mc : Nat) (s : State) : (s.charge c mc).draws = s.draws := rfl

/-! writePc -/

@[simp] theorem writePc_regs (v : Word) (s : State) : (writePc v s).regs = s.regs := rfl
@[simp] theorem writePc_pc (v : Word) (s : State) : (writePc v s).pc = alignPc s.cpsr.t v := rfl
@[simp] theorem writePc_cpsr (v : Word) (s : State) : (writePc v s).cpsr = s.cpsr := rfl
@[simp] theorem writePc_spsrFiq (v : Word) (s : State) : (writePc v s).spsrFiq = s.spsrFiq := rfl
@[simp] theorem writePc_spsrIrq (v : Word) (s : State) : (writePc v s).spsrIrq = s.spsrIrq := rfl
@[simp] theorem writePc_spsrSvc (v : Word) (s : State) : (writePc v s).spsrSvc = s.spsrSvc := rfl
@[simp] theorem writePc_spsrAbt (v : Word) (s : State) : (writePc v s).spsrAbt = s.spsrAbt := rfl
@[simp] theorem writePc_spsrUnd (v : Word) (s : State) : (writePc v s).spsrUnd = s.spsrUnd := rfl
@[simp] theorem writePc_halted (v : Word) (s : State) : (writePc v s).halted = s.halted := rfl
@[simp] theorem writePc_mem (v : Word) (s : State) : (writePc v s).mem = s.mem := rfl
@[simp] theorem writePc_lastAccess (v : Word) (s : State) : (writePc v s).lastAccess = s.lastAccess := rfl
@[simp] theorem writePc_plat (v : Word) (s : State) : (writePc v s).plat = s.plat := rfl
@[simp] theorem writePc_stepCost (v : Word) (s : State) : (writePc v s).stepCost = s.stepCost := rfl
@[simp] theorem writePc_budget (v : Word) (s : State) : (writePc v s).budget = s.budget := rfl
@[simp] theorem writePc_wrotePc (v : Word) (s : State) : (writePc v s).wrotePc = true := rfl
@[simp] theorem writePc_draws (v : Word) (s : State) : (writePc v s).draws = s.draws := rfl

/-! setFlags -/

@[simp] theorem setFlags_regs (o : AluOut) (s : State) : (setFlags o s).regs = s.regs := rfl
@[simp] theorem setFlags_pc (o : AluOut) (s : State) : (setFlags o s).pc = s.pc := rfl
@[simp] theorem setFlags_cpsr (o : AluOut) (s : State) : (setFlags o s).cpsr = s.cpsr.withResult o := rfl
@[simp] theorem setFlags_spsrFiq (o : AluOut) (s : State) : (setFlags o s).spsrFiq = s.spsrFiq := rfl
@[simp] theorem setFlags_spsrIrq (o : AluOut) (s : State) : (setFlags o s).spsrIrq = s.spsrIrq := rfl
@[simp] theorem setFlags_spsrSvc (o : AluOut) (s : State) : (setFlags o s).spsrSvc = s.spsrSvc := rfl
@[simp] theorem setFlags_spsrAbt (o : AluOut) (s : State) : (setFlags o s).spsrAbt = s.spsrAbt := rfl
@[simp] theorem setFlags_spsrUnd (o : AluOut) (s : State) : (setFlags o s).spsrUnd = s.spsrUnd := rfl
@[simp] theorem setFlags_halted (o : AluOut) (s : State) : (setFlags o s).halted = s.halted := rfl
@[simp] theorem setFlags_mem (o : AluOut) (s : State) : (setFlags o s).mem = s.mem := rfl
@[simp] theorem setFlags_lastAccess (o : AluOut) (s : State) : (setFlags o s).lastAccess = s.lastAccess := rfl
@[simp] theorem setFlags_plat (o : AluOut) (s : State) : (setFlags o s).plat = s.plat := rfl
@[simp] theorem setFlags_stepCost (o : AluOut) (s : State) : (setFlags o s).stepCost = s.stepCost := rfl
@[simp] theorem setFlags_budget (o : AluOut) (s : State) : (setFlags o s).budget = s.budget := rfl
@[simp] theorem setFlags_wrotePc (o : AluOut) (s : State) : (setFlags o s).wrotePc = s.wrotePc := rfl
@[simp] theorem setFlags_draws (o : AluOut) (s : State) : (setFlags o s).draws = s.draws := rfl

/-! noteAccess -/

@[simp] theorem noteAccess_regs (r : Request) (c : List (Word × Byte)) (s : State) : (s.noteAccess r c).regs = s.regs := rfl
@[simp] theorem noteAccess_pc (r : Request) (c : List (Word × Byte)) (s : State) : (s.noteAccess r c).pc = s.pc := rfl
@[simp] theorem noteAccess_cpsr (r : Request) (c : List (Word × Byte)) (s : State) : (s.noteAccess r c).cpsr = s.cpsr := rfl
@[simp] theorem noteAccess_spsrFiq (r : Request) (c : List (Word × Byte)) (s : State) : (s.noteAccess r c).spsrFiq = s.spsrFiq := rfl
@[simp] theorem noteAccess_spsrIrq (r : Request) (c : List (Word × Byte)) (s : State) : (s.noteAccess r c).spsrIrq = s.spsrIrq := rfl
@[simp] theorem noteAccess_spsrSvc (r : Request) (c : List (Word × Byte)) (s : State) : (s.noteAccess r c).spsrSvc = s.spsrSvc := rfl
@[simp] theorem noteAccess_spsrAbt (r : Request) (c : List (Word × Byte)) (s : State) : (s.noteAccess r c).spsrAbt = s.spsrAbt := rfl
@[simp] theorem noteAccess_spsrUnd (r : Request) (c : List (Word × Byte)) (s : State) : (s.noteAccess r c).spsrUnd = s.spsrUnd := rfl
@[simp] theorem noteAccess_halted (r : Request) (c : List (Word × Byte)) (s : State) : (s.noteAccess r c).halted = s.halted := rfl
@[simp] theorem noteAccess_mem (r : Request) (c : List (Word × Byte)) (s : State) : (s.noteAccess r c).mem = (respondAll r c s.plat.periphs s.mem).2.1 := rfl
@[simp] theorem noteAccess_lastAccess (r : Request) (c : List (Word × Byte)) (s : State) : (s.noteAccess r c).lastAccess = some { addr := r.addr, width := r.width } := rfl
@[simp] theorem noteAccess_plat (r : Request) (c : List (Word × Byte)) (s : State) : (s.noteAccess r c).plat = { s.plat with bus := Config.busAfter s.plat.bus r, periphs := (respondAll r c s.plat.periphs s.mem).1 } := rfl
@[simp] theorem noteAccess_stepCost (r : Request) (c : List (Word × Byte)) (s : State) : (s.noteAccess r c).stepCost = s.stepCost + accessCycles s r := rfl
@[simp] theorem noteAccess_budget (r : Request) (c : List (Word × Byte)) (s : State) : (s.noteAccess r c).budget = s.budget := rfl
@[simp] theorem noteAccess_wrotePc (r : Request) (c : List (Word × Byte)) (s : State) : (s.noteAccess r c).wrotePc = s.wrotePc := rfl
@[simp] theorem noteAccess_draws (r : Request) (c : List (Word × Byte)) (s : State) : (s.noteAccess r c).draws = s.draws := rfl

/-! stored -/

@[simp] theorem stored_regs (a : Word) (w : Width) (v : Word) (s : State) : (s.stored a w v).regs = s.regs := rfl
@[simp] theorem stored_pc (a : Word) (w : Width) (v : Word) (s : State) : (s.stored a w v).pc = s.pc := rfl
@[simp] theorem stored_cpsr (a : Word) (w : Width) (v : Word) (s : State) : (s.stored a w v).cpsr = s.cpsr := rfl
@[simp] theorem stored_spsrFiq (a : Word) (w : Width) (v : Word) (s : State) : (s.stored a w v).spsrFiq = s.spsrFiq := rfl
@[simp] theorem stored_spsrIrq (a : Word) (w : Width) (v : Word) (s : State) : (s.stored a w v).spsrIrq = s.spsrIrq := rfl
@[simp] theorem stored_spsrSvc (a : Word) (w : Width) (v : Word) (s : State) : (s.stored a w v).spsrSvc = s.spsrSvc := rfl
@[simp] theorem stored_spsrAbt (a : Word) (w : Width) (v : Word) (s : State) : (s.stored a w v).spsrAbt = s.spsrAbt := rfl
@[simp] theorem stored_spsrUnd (a : Word) (w : Width) (v : Word) (s : State) : (s.stored a w v).spsrUnd = s.spsrUnd := rfl
@[simp] theorem stored_halted (a : Word) (w : Width) (v : Word) (s : State) : (s.stored a w v).halted = s.halted := rfl
@[simp] theorem stored_lastAccess (a : Word) (w : Width) (v : Word) (s : State) : (s.stored a w v).lastAccess = s.lastAccess := rfl
@[simp] theorem stored_plat (a : Word) (w : Width) (v : Word) (s : State) : (s.stored a w v).plat = s.plat := rfl
@[simp] theorem stored_stepCost (a : Word) (w : Width) (v : Word) (s : State) : (s.stored a w v).stepCost = s.stepCost := rfl
@[simp] theorem stored_budget (a : Word) (w : Width) (v : Word) (s : State) : (s.stored a w v).budget = s.budget := rfl
@[simp] theorem stored_wrotePc (a : Word) (w : Width) (v : Word) (s : State) : (s.stored a w v).wrotePc = s.wrotePc := rfl
@[simp] theorem stored_draws (a : Word) (w : Width) (v : Word) (s : State) : (s.stored a w v).draws = s.draws := rfl
@[simp] theorem stored_mem (a : Word) (w : Width) (v : Word) (s : State) :
    (s.stored a w v).mem = s.mem.storeBytes s.plat.writeMasks (cellsOf a w v) := rfl
theorem accessCycles_stored (a : Word) (w : Width) (v : Word) (r : Request) (s : State) :
    accessCycles (s.stored a w v) r = accessCycles s r := rfl

/-! examineHalt -/

@[simp] theorem examineHalt_regs (asked : Bool) (s : State) : (s.examineHalt asked).regs = s.regs := by
  unfold State.examineHalt
  split <;> rfl
@[simp] theorem examineHalt_pc (asked : Bool) (s : State) : (s.examineHalt asked).pc = s.pc := by
  unfold State.examineHalt
  split <;> rfl
@[simp] theorem examineHalt_cpsr (asked : Bool) (s : State) : (s.examineHalt asked).cpsr = s.cpsr := by
  unfold State.examineHalt
  split <;> rfl
@[simp] theorem examineHalt_spsrFiq (asked : Bool) (s : State) : (s.examineHalt asked).spsrFiq = s.spsrFiq := by
  unfold State.examineHalt
  split <;> rfl
@[simp] theorem examineHalt_spsrIrq (asked : Bool) (s : State) : (s.examineHalt asked).spsrIrq = s.spsrIrq := by
  unfold State.examineHalt
  split <;> rfl
@[simp] theorem examineHalt_spsrSvc (asked : Bool) (s : State) : (s.examineHalt asked).spsrSvc = s.spsrSvc := by
  unfold State.examineHalt
  split <;> rfl
@[simp] theorem examineHalt_spsrAbt (asked : Bool) (s : State) : (s.examineHalt asked).spsrAbt = s.spsrAbt := by
  unfold State.examineHalt
  split <;> rfl
@[simp] theorem examineHalt_spsrUnd (asked : Bool) (s : State) : (s.examineHalt asked).spsrUnd = s.spsrUnd := by
  unfold State.examineHalt
  split <;> rfl
@[simp] theorem examineHalt_halted (asked : Bool) (s : State) : (s.examineHalt asked).halted = (s.halted || (asked && s.cpsr.mode != .usr)) := by
  unfold State.examineHalt Config.haltWriteNeedsPrivilege
  cases asked <;> cases h : (s.cpsr.mode != .usr) <;> simp
@[simp] theorem examineHalt_mem (asked : Bool) (s : State) : (s.examineHalt asked).mem = s.mem := by
  unfold State.examineHalt
  split <;> rfl
@[simp] theorem examineHalt_lastAccess (asked : Bool) (s : State) : (s.examineHalt asked).lastAccess = s.lastAccess := by
  unfold State.examineHalt
  split <;> rfl
@[simp] theorem examineHalt_plat (asked : Bool) (s : State) : (s.examineHalt asked).plat = s.plat := by
  unfold State.examineHalt
  split <;> rfl
@[simp] theorem examineHalt_stepCost (asked : Bool) (s : State) : (s.examineHalt asked).stepCost = s.stepCost := by
  unfold State.examineHalt
  split <;> rfl
@[simp] theorem examineHalt_budget (asked : Bool) (s : State) : (s.examineHalt asked).budget = s.budget := by
  unfold State.examineHalt
  split <;> rfl
@[simp] theorem examineHalt_wrotePc (asked : Bool) (s : State) : (s.examineHalt asked).wrotePc = s.wrotePc := by
  unfold State.examineHalt
  split <;> rfl
@[simp] theorem examineHalt_draws (asked : Bool) (s : State) : (s.examineHalt asked).draws = s.draws := by
  unfold State.examineHalt
  split <;> rfl

/-! The reads of the registers and status registers through an update of another field -/

@[simp] theorem phys_setCpsr (p : Cpsr) (q : PhysReg) (s : State) : (s.setCpsr p).phys q = s.phys q := rfl
@[simp] theorem phys_setSpsr (b : ExcMode) (p : Spsr) (q : PhysReg) (s : State) : (s.setSpsr b p).phys q = s.phys q := by
  cases b <;> rfl
@[simp] theorem phys_addCost (k : Nat) (q : PhysReg) (s : State) : (s.addCost k).phys q = s.phys q := rfl
@[simp] theorem phys_charge (c : CostCategory) (mc : Nat) (q : PhysReg) (s : State) : (s.charge c mc).phys q = s.phys q := rfl
@[simp] theorem phys_writePc (v : Word) (q : PhysReg) (s : State) : (writePc v s).phys q = s.phys q := rfl
@[simp] theorem phys_setFlags (o : AluOut) (q : PhysReg) (s : State) : (setFlags o s).phys q = s.phys q := rfl
@[simp] theorem spsr_setPhys (p : PhysReg) (v : Word) (b : ExcMode) (s : State) : (s.setPhys p v).spsr b = s.spsr b := by
  cases b <;> rfl
@[simp] theorem spsr_setCpsr (p : Cpsr) (b : ExcMode) (s : State) : (s.setCpsr p).spsr b = s.spsr b := by cases b <;> rfl
@[simp] theorem spsr_charge (c : CostCategory) (mc : Nat) (b : ExcMode) (s : State) : (s.charge c mc).spsr b = s.spsr b := by
  cases b <;> rfl
@[simp] theorem spsr_writePc (v : Word) (b : ExcMode) (s : State) : (writePc v s).spsr b = s.spsr b := by cases b <;> rfl

/-! Taking an exception -/

@[simp] theorem enterException_regs (cls : ExcClass) (ret : Word) (s : State) :
    (enterException cls ret s).regs = s.regs.set (physReg (excMode cls).mode 14#4).index.val (ret + lrAdjust cls) (physReg (excMode cls).mode 14#4).index.isLt := by
  simp [enterException]
@[simp] theorem enterException_pc (cls : ExcClass) (ret : Word) (s : State) :
    (enterException cls ret s).pc = vectorOf cls := by
  simp [enterException]
@[simp] theorem enterException_cpsr (cls : ExcClass) (ret : Word) (s : State) :
    (enterException cls ret s).cpsr = s.cpsr.enter cls := by
  simp [enterException]
@[simp] theorem enterException_spsrFiq (cls : ExcClass) (ret : Word) (s : State) :
    (enterException cls ret s).spsrFiq = if excMode cls = .fiq then s.cpsr.save else s.spsrFiq := by
  simp [enterException]
@[simp] theorem enterException_spsrIrq (cls : ExcClass) (ret : Word) (s : State) :
    (enterException cls ret s).spsrIrq = if excMode cls = .irq then s.cpsr.save else s.spsrIrq := by
  simp [enterException]
@[simp] theorem enterException_spsrSvc (cls : ExcClass) (ret : Word) (s : State) :
    (enterException cls ret s).spsrSvc = if excMode cls = .svc then s.cpsr.save else s.spsrSvc := by
  simp [enterException]
@[simp] theorem enterException_spsrAbt (cls : ExcClass) (ret : Word) (s : State) :
    (enterException cls ret s).spsrAbt = if excMode cls = .abt then s.cpsr.save else s.spsrAbt := by
  simp [enterException]
@[simp] theorem enterException_spsrUnd (cls : ExcClass) (ret : Word) (s : State) :
    (enterException cls ret s).spsrUnd = if excMode cls = .und then s.cpsr.save else s.spsrUnd := by
  simp [enterException]
@[simp] theorem enterException_halted (cls : ExcClass) (ret : Word) (s : State) :
    (enterException cls ret s).halted = s.halted := by
  simp [enterException]
@[simp] theorem enterException_mem (cls : ExcClass) (ret : Word) (s : State) :
    (enterException cls ret s).mem = s.mem := by
  simp [enterException]
@[simp] theorem enterException_lastAccess (cls : ExcClass) (ret : Word) (s : State) :
    (enterException cls ret s).lastAccess = s.lastAccess := by
  simp [enterException]
@[simp] theorem enterException_plat (cls : ExcClass) (ret : Word) (s : State) :
    (enterException cls ret s).plat = s.plat := by
  simp [enterException]
@[simp] theorem enterException_stepCost (cls : ExcClass) (ret : Word) (s : State) :
    (enterException cls ret s).stepCost = s.stepCost + Config.excEntryCost cls + Config.refillCost (vectorOf cls) false := by
  simp [enterException]
@[simp] theorem enterException_budget (cls : ExcClass) (ret : Word) (s : State) :
    (enterException cls ret s).budget = s.budget := by
  simp [enterException]
@[simp] theorem enterException_wrotePc (cls : ExcClass) (ret : Word) (s : State) :
    (enterException cls ret s).wrotePc = s.wrotePc := by
  simp [enterException]
@[simp] theorem enterException_draws (cls : ExcClass) (ret : Word) (s : State) :
    (enterException cls ret s).draws = s.draws := by
  simp [enterException]

/-! Memory accesses -/

@[simp] theorem readRequest_kind (a : Word) (w : Width) : (readRequest a w).kind = .read := rfl
@[simp] theorem readRequest_addr (a : Word) (w : Width) : (readRequest a w).addr = a := rfl
@[simp] theorem readRequest_width (a : Word) (w : Width) : (readRequest a w).width = w := rfl
@[simp] theorem writeRequest_kind (a : Word) (w : Width) (v : Word) : (writeRequest a w v).kind = .write := rfl
@[simp] theorem writeRequest_addr (a : Word) (w : Width) (v : Word) : (writeRequest a w v).addr = a := rfl
@[simp] theorem writeRequest_width (a : Word) (w : Width) (v : Word) : (writeRequest a w v).width = w := rfl
@[simp] theorem memRead_regs (a : Word) (w : Width) (s : State) : (memRead a w s).2.regs = s.regs := rfl
@[simp] theorem memRead_pc (a : Word) (w : Width) (s : State) : (memRead a w s).2.pc = s.pc := rfl
@[simp] theorem memRead_cpsr (a : Word) (w : Width) (s : State) : (memRead a w s).2.cpsr = s.cpsr := rfl
@[simp] theorem memRead_spsrFiq (a : Word) (w : Width) (s : State) : (memRead a w s).2.spsrFiq = s.spsrFiq := rfl
@[simp] theorem memRead_spsrIrq (a : Word) (w : Width) (s : State) : (memRead a w s).2.spsrIrq = s.spsrIrq := rfl
@[simp] theorem memRead_spsrSvc (a : Word) (w : Width) (s : State) : (memRead a w s).2.spsrSvc = s.spsrSvc := rfl
@[simp] theorem memRead_spsrAbt (a : Word) (w : Width) (s : State) : (memRead a w s).2.spsrAbt = s.spsrAbt := rfl
@[simp] theorem memRead_spsrUnd (a : Word) (w : Width) (s : State) : (memRead a w s).2.spsrUnd = s.spsrUnd := rfl
@[simp] theorem memRead_halted (a : Word) (w : Width) (s : State) : (memRead a w s).2.halted = s.halted := rfl
@[simp] theorem memRead_lastAccess (a : Word) (w : Width) (s : State) : (memRead a w s).2.lastAccess = some { addr := a, width := w } := rfl
@[simp] theorem memRead_writeMasks (a : Word) (w : Width) (s : State) : (memRead a w s).2.plat.writeMasks = s.plat.writeMasks := rfl
@[simp] theorem memRead_haltWrites (a : Word) (w : Width) (s : State) : (memRead a w s).2.plat.haltWrites = s.plat.haltWrites := rfl
@[simp] theorem memRead_stepCost (a : Word) (w : Width) (s : State) : (memRead a w s).2.stepCost = s.stepCost + accessCycles s (readRequest a w) := rfl
@[simp] theorem memRead_budget (a : Word) (w : Width) (s : State) : (memRead a w s).2.budget = s.budget := rfl
@[simp] theorem memRead_wrotePc (a : Word) (w : Width) (s : State) : (memRead a w s).2.wrotePc = s.wrotePc := rfl
@[simp] theorem memRead_draws (a : Word) (w : Width) (s : State) : (memRead a w s).2.draws = s.draws := rfl
@[simp] theorem memRead_value (a : Word) (w : Width) (s : State) : (memRead a w s).1 = (memRead a w s).2.mem.load a w := rfl
@[simp] theorem memWrite_regs (a : Word) (w : Width) (v : Word) (s : State) :
    (memWrite a w v s).regs = s.regs := by
  simp [memWrite]
@[simp] theorem memWrite_pc (a : Word) (w : Width) (v : Word) (s : State) :
    (memWrite a w v s).pc = s.pc := by
  simp [memWrite]
@[simp] theorem memWrite_cpsr (a : Word) (w : Width) (v : Word) (s : State) :
    (memWrite a w v s).cpsr = s.cpsr := by
  simp [memWrite]
@[simp] theorem memWrite_spsrFiq (a : Word) (w : Width) (v : Word) (s : State) :
    (memWrite a w v s).spsrFiq = s.spsrFiq := by
  simp [memWrite]
@[simp] theorem memWrite_spsrIrq (a : Word) (w : Width) (v : Word) (s : State) :
    (memWrite a w v s).spsrIrq = s.spsrIrq := by
  simp [memWrite]
@[simp] theorem memWrite_spsrSvc (a : Word) (w : Width) (v : Word) (s : State) :
    (memWrite a w v s).spsrSvc = s.spsrSvc := by
  simp [memWrite]
@[simp] theorem memWrite_spsrAbt (a : Word) (w : Width) (v : Word) (s : State) :
    (memWrite a w v s).spsrAbt = s.spsrAbt := by
  simp [memWrite]
@[simp] theorem memWrite_spsrUnd (a : Word) (w : Width) (v : Word) (s : State) :
    (memWrite a w v s).spsrUnd = s.spsrUnd := by
  simp [memWrite]
@[simp] theorem memWrite_halted (a : Word) (w : Width) (v : Word) (s : State) :
    (memWrite a w v s).halted = (s.halted || ((s.stored a w v).haltAnswer a w v && s.cpsr.mode != .usr)) := by
  simp [memWrite]
@[simp] theorem memWrite_lastAccess (a : Word) (w : Width) (v : Word) (s : State) :
    (memWrite a w v s).lastAccess = some { addr := a, width := w } := by
  simp [memWrite]
@[simp] theorem memWrite_writeMasks (a : Word) (w : Width) (v : Word) (s : State) :
    (memWrite a w v s).plat.writeMasks = s.plat.writeMasks := by
  simp [memWrite]
@[simp] theorem memWrite_haltWrites (a : Word) (w : Width) (v : Word) (s : State) :
    (memWrite a w v s).plat.haltWrites = s.plat.haltWrites := by
  simp [memWrite]
@[simp] theorem memWrite_stepCost (a : Word) (w : Width) (v : Word) (s : State) :
    (memWrite a w v s).stepCost = s.stepCost + accessCycles s (writeRequest a w v) := by
  simp only [memWrite, examineHalt_stepCost, noteAccess_stepCost, stored_stepCost, accessCycles_stored]
@[simp] theorem memWrite_budget (a : Word) (w : Width) (v : Word) (s : State) :
    (memWrite a w v s).budget = s.budget := by
  simp [memWrite]
@[simp] theorem memWrite_wrotePc (a : Word) (w : Width) (v : Word) (s : State) :
    (memWrite a w v s).wrotePc = s.wrotePc := by
  simp [memWrite]
@[simp] theorem memWrite_draws (a : Word) (w : Width) (v : Word) (s : State) :
    (memWrite a w v s).draws = s.draws := by
  simp [memWrite]
@[simp] theorem memRead_phys (a : Word) (w : Width) (q : PhysReg) (s : State) : (memRead a w s).2.phys q = s.phys q := rfl
@[simp] theorem memWrite_phys (a : Word) (w : Width) (v : Word) (q : PhysReg) (s : State) :
    (memWrite a w v s).phys q = s.phys q := by
  simp [State.phys]

end Sys2Proof.Machine
end

