-- ==== Sys2Proof/Laws/Devices.lean ====
section
/-! SUPPORT. Devices: what their answers to an access and their ticks can change, and what no device changes. -/

namespace Sys2Proof.Machine

/-! ## The bytes a device puts in memory -/

theorem Memory.wf_pokes (own : Word → Bool) (l : List (Word × Byte)) : ∀ m : Memory, m.wf = true → (m.pokes own l).wf = true := by
  induction l with
  | nil => exact fun _ h => h
  | cons c rest ih =>
    intro m h
    refine ih _ ?_
    split
    · exact Memory.wf_write m _ _ c.1.isLt h
    · exact h

/-- A byte at which the device may put nothing stays. -/
theorem Memory.read_pokes_ne (own : Word → Bool) (l : List (Word × Byte)) {n : Nat} (hn : ∀ a : Word, a.toNat = n → own a = false) :
    ∀ m : Memory, (m.pokes own l).read n = m.read n := by
  induction l with
  | nil => exact fun _ => rfl
  | cons c rest ih =>
    intro m
    refine (ih _).trans ?_
    split
    · next h => exact Memory.read_write_ne m _ fun e => by simp [hn c.1 e.symm] at h
    · rfl

/-- Canonical memories that agree where `own` lets the device put bytes agree there afterwards. -/
theorem Memory.read_pokes_congr (own : Word → Bool) (l : List (Word × Byte)) : ∀ {m n : Memory}, m.wf = true → n.wf = true →
    (∀ a : Word, own a = true → m.read a.toNat = n.read a.toNat) →
    ∀ a : Word, own a = true → (m.pokes own l).read a.toNat = (n.pokes own l).read a.toNat := by
  induction l with
  | nil => exact fun _ _ h => h
  | cons c rest ih =>
    intro m n hm hn h
    simp only [Memory.pokes]
    split
    · refine ih (Memory.wf_write m _ _ c.1.isLt hm) (Memory.wf_write n _ _ c.1.isLt hn) fun a ha => ?_
      by_cases e : a.toNat = c.1.toNat
      · rw [e, Memory.read_write_same m _ _ hm, Memory.read_write_same n _ _ hn]
      · rw [Memory.read_write_ne m _ e, Memory.read_write_ne n _ e, h a ha]
    · exact ih hm hn h

/-! ## The bytes a device sees in an access -/

theorem Memory.wf_within (own : Word → Bool) (m : Memory) (h : m.wf = true) : (m.within own).wf = true := by
  induction m with
  | nil => rfl
  | cons c m ih =>
    simp only [Memory.wf, Bool.and_eq_true] at h
    have hw := ih h.2
    simp only [Memory.within, List.filter_cons] at hw ⊢
    split
    · simp only [Memory.wf, Bool.and_eq_true]
      refine ⟨⟨h.1.1, ?_⟩, hw⟩
      simp only [List.all_eq_true, List.mem_filter] at h ⊢
      exact fun x hx => h.1.2 x hx.1
    · exact hw

/-- The device sees the bytes `own` holds, and every other as unlisted. -/
theorem Memory.read_within (own : Word → Bool) (m : Memory) (a : Nat) :
    (m.within own).read a = if own (BitVec.ofNat 32 a) = true then m.read a else Memory.unlisted := by
  induction m with
  | nil => simp [Memory.within, Memory.read]
  | cons c m ih =>
    simp only [Memory.within, List.filter_cons] at ih ⊢
    by_cases e : c.1 = a
    · subst e
      split <;> simp_all [Memory.read]
    · rw [Memory.read, if_neg e, ← ih]
      split
      · rw [Memory.read, if_neg e]
      · rfl

/-- What a device sees depends on the bytes `own` holds alone (R77). -/
theorem Memory.within_congr (own : Word → Bool) {m n : Memory} (hm : m.wf = true) (hn : n.wf = true)
    (h : ∀ a : Word, own a = true → m.read a.toNat = n.read a.toNat) : m.within own = n.within own := by
  refine Memory.ext_of_wf (Memory.wf_within own m hm) (Memory.wf_within own n hn) fun a => ?_
  rw [Memory.read_within, Memory.read_within]
  split
  · next e =>
    by_cases ha : a < 2 ^ 32
    · have := h _ e
      rwa [BitVec.toNat_ofNat, Nat.mod_eq_of_lt ha] at this
    · rw [Memory.read_above m hm (by omega), Memory.read_above n hn (by omega)]
  · rfl

/-! ## One peripheral's answer -/

/-- A peripheral's answer leaves its clock, its registers' addresses and its known answers alone. -/
theorem respond_rest (r : Request) (cells : List (Word × Byte)) (p : Peripheral) (m : Memory) :
    let x := p.respond r cells m
    x.1.elapsed = p.elapsed ∧ x.1.windows = p.windows ∧ x.1.responses = p.responses := by
  unfold Peripheral.respond
  dsimp only
  split
  · split <;> exact ⟨rfl, rfl, rfl⟩
  · exact ⟨rfl, rfl, rfl⟩

theorem respond_wf (r : Request) (cells : List (Word × Byte)) (p : Peripheral) (m : Memory) (h : m.wf = true) :
    (p.respond r cells m).2.1.wf = true := by
  unfold Peripheral.respond
  dsimp only
  split
  · split
    · exact h
    · exact Memory.wf_pokes _ _ m h
  · exact h

/-- An answer changes no byte but the peripheral's registers (R77). -/
theorem respond_read_ne (r : Request) (cells : List (Word × Byte)) (p : Peripheral) (m : Memory) {n : Nat}
    (h : ∀ a : Word, a.toNat = n → ownedBy p.windows a = false) : (p.respond r cells m).2.1.read n = m.read n := by
  unfold Peripheral.respond
  dsimp only
  split
  · split
    · rfl
    · exact Memory.read_pokes_ne _ _ h m
  · rfl

/-- A peripheral does not hear an access that touches none of its registers (R74, R77). -/
theorem respond_unwatched (r : Request) (cells : List (Word × Byte)) (p : Peripheral) (m : Memory)
    (h : watchedBy p.windows r.addr r.width = false) : p.respond r cells m = (p, m, false) := by
  unfold Peripheral.respond
  dsimp only
  rw [h]
  rfl

/-- An answer reads no byte but the peripheral's registers (R77): memories that agree on these, and accesses that move the same bytes
there, get the same device, the same answer and the same registers after. -/
theorem respond_congr (r : Request) {c d : List (Word × Byte)} (p : Peripheral) {m n : Memory} (hm : m.wf = true) (hn : n.wf = true)
    (hc : c.filter (fun x => ownedBy p.windows x.1) = d.filter fun x => ownedBy p.windows x.1)
    (h : ∀ a : Word, ownedBy p.windows a = true → m.read a.toNat = n.read a.toNat) :
    (p.respond r c m).1 = (p.respond r d n).1 ∧ (p.respond r c m).2.2 = (p.respond r d n).2.2 ∧
    ∀ a : Word, ownedBy p.windows a = true → (p.respond r c m).2.1.read a.toNat = (p.respond r d n).2.1.read a.toNat := by
  unfold Peripheral.respond
  dsimp only
  rw [hc, Memory.within_congr _ hm hn h]
  split
  · split
    · exact ⟨rfl, rfl, h⟩
    · exact ⟨rfl, rfl, Memory.read_pokes_congr _ _ hm hn h⟩
  · exact ⟨rfl, rfl, h⟩

/-! ## All peripherals' answers -/

theorem watchedBy_append (u v : List Window) (a : Word) (w : Width) :
    watchedBy (u ++ v) a w = (watchedBy u a w || watchedBy v a w) := by
  cases w <;> simp only [watchedBy, ownedBy, byteAddrs, List.any_append, List.any_cons, List.any_nil, Bool.or_false]
  all_goals ac_rfl

theorem respondAll_rest (r : Request) (cells : List (Word × Byte)) (ps : List Peripheral) : ∀ m : Memory,
    let x := respondAll r cells ps m
    x.1.map Peripheral.elapsed = ps.map Peripheral.elapsed ∧ x.1.flatMap Peripheral.windows = ps.flatMap Peripheral.windows := by
  induction ps with
  | nil => exact fun _ => ⟨rfl, rfl⟩
  | cons p rest ih =>
    intro m
    obtain ⟨h1, h2, _⟩ := respond_rest r cells p m
    obtain ⟨k1, k2⟩ := ih (p.respond r cells m).2.1
    exact ⟨by simp only [respondAll, List.map_cons, h1, k1], by simp only [respondAll, List.flatMap_cons, h2, k2]⟩

theorem respondAll_wf (r : Request) (cells : List (Word × Byte)) (ps : List Peripheral) :
    ∀ m : Memory, m.wf = true → (respondAll r cells ps m).2.1.wf = true := by
  induction ps with
  | nil => exact fun _ h => h
  | cons p rest ih => exact fun m h => ih _ (respond_wf r cells p m h)

theorem respondAll_read_ne (r : Request) (cells : List (Word × Byte)) {n : Nat} (ps : List Peripheral) : ∀ m : Memory,
    (∀ a : Word, a.toNat = n → ownedBy (ps.flatMap Peripheral.windows) a = false) →
    (respondAll r cells ps m).2.1.read n = m.read n := by
  induction ps with
  | nil => exact fun _ _ => rfl
  | cons p rest ih =>
    intro m h
    simp only [List.flatMap_cons, ownedBy, List.any_append, Bool.or_eq_false_iff] at h
    exact (ih _ fun a e => (h a e).2).trans (respond_read_ne r cells p m fun a e => (h a e).1)

theorem respondAll_unwatched (r : Request) (cells : List (Word × Byte)) (ps : List Peripheral) : ∀ m : Memory,
    watchedBy (ps.flatMap Peripheral.windows) r.addr r.width = false → (respondAll r cells ps m).2 = (m, false) := by
  induction ps with
  | nil => exact fun _ _ => rfl
  | cons p rest ih =>
    intro m h
    rw [List.flatMap_cons, watchedBy_append, Bool.or_eq_false_iff] at h
    have e := respond_unwatched r cells p m h.1
    have k := ih m h.2
    simp only [respondAll, e, k, Bool.or_false]

/-! ## The two accesses -/

theorem memRead_mem_eq (a : Word) (w : Width) (s : State) : (memRead a w s).2.mem =
    (respondAll (readRequest a w) (cellsOf a w (s.mem.load a w)) s.plat.periphs s.mem).2.1 := rfl

@[simp] theorem memRead_elapsed (a : Word) (w : Width) (s : State) :
    (memRead a w s).2.plat.periphs.map Peripheral.elapsed = s.plat.periphs.map Peripheral.elapsed :=
  (respondAll_rest _ _ _ _).1

@[simp] theorem memRead_windows (a : Word) (w : Width) (s : State) : (memRead a w s).2.plat.windows = s.plat.windows :=
  (respondAll_rest _ _ _ _).2

theorem memRead_wf (a : Word) (w : Width) (s : State) (h : s.mem.wf = true) : (memRead a w s).2.mem.wf = true :=
  respondAll_wf _ _ _ _ h

/-- A read changes no byte but registers of devices (R77). -/
theorem memRead_read_ne (a : Word) (w : Width) (s : State) {n : Nat}
    (h : ∀ b : Word, b.toNat = n → ownedBy s.plat.windows b = false) : (memRead a w s).2.mem.read n = s.mem.read n :=
  respondAll_read_ne _ _ _ _ h

/-- A read that touches no register of a device answers from plain memory and changes no byte (R66, R77). -/
theorem memRead_mem_of_unwatched (a : Word) (w : Width) (s : State) (h : watchedBy s.plat.windows a w = false) :
    (memRead a w s).2.mem = s.mem :=
  congrArg Prod.fst (respondAll_unwatched (readRequest a w) _ s.plat.periphs _ h)

theorem memWrite_mem_eq (a : Word) (w : Width) (v : Word) (s : State) : (memWrite a w v s).mem =
    (respondAll (writeRequest a w v) (cellsOf a w v) s.plat.periphs (s.stored a w v).mem).2.1 := by
  simp only [memWrite, examineHalt_mem, noteAccess_mem, stored_plat]

@[simp] theorem memWrite_elapsed (a : Word) (w : Width) (v : Word) (s : State) :
    (memWrite a w v s).plat.periphs.map Peripheral.elapsed = s.plat.periphs.map Peripheral.elapsed := by
  simp only [memWrite, examineHalt_plat, noteAccess_plat, stored_plat]
  exact (respondAll_rest _ _ _ _).1

@[simp] theorem memWrite_windows (a : Word) (w : Width) (v : Word) (s : State) :
    (memWrite a w v s).plat.windows = s.plat.windows := by
  simp only [memWrite, examineHalt_plat, noteAccess_plat, stored_plat, Platform.windows]
  exact (respondAll_rest _ _ _ _).2

theorem memWrite_wf (a : Word) (w : Width) (v : Word) (s : State) (h : s.mem.wf = true) : (memWrite a w v s).mem.wf = true := by
  rw [memWrite_mem_eq]
  exact respondAll_wf _ _ _ _ (Memory.wf_storeBytes _ _ _ h)

theorem memWrite_mem_of_unwatched (a : Word) (w : Width) (v : Word) (s : State) (h : watchedBy s.plat.windows a w = false) :
    (memWrite a w v s).mem = (s.stored a w v).mem := by
  rw [memWrite_mem_eq]
  exact congrArg Prod.fst (respondAll_unwatched (writeRequest a w v) _ s.plat.periphs _ h)

/-! ## Ticks -/

theorem wf_runEvents (es : List Event) : ∀ n level m, m.wf = true → (runEvents es n level m).mem.wf = true := by
  induction es with
  | nil => exact fun _ _ _ h => h
  | cons e rest ih =>
    intro n level m h
    simp only [runEvents]
    split
    · split
      · exact ih _ _ _ h
      · exact ih _ _ _ (Memory.wf_write m _ _ (BitVec.isLt _) h)
      · exact h
    · exact h

theorem wf_run (k : Nat) : ∀ (n : Nat) (p : Peripheral) (m : Memory), m.wf = true → (p.run k n m).2.wf = true := by
  induction k with
  | zero => exact fun _ _ _ h => h
  | succ k ih =>
    intro n p m h
    simp only [Peripheral.run]
    split
    · exact ih _ _ _ (Memory.wf_pokes _ _ _ (wf_runEvents p.events n p.level m h))
    · exact wf_runEvents p.events n p.level m h

theorem wf_tickAll (n : Nat) (ps : List Peripheral) : ∀ m, m.wf = true → (tickAll n ps m).2.wf = true := by
  induction ps with
  | nil => exact fun _ h => h
  | cons p rest ih => exact fun m h => ih _ (wf_run (n + 1) n p m h)

theorem wf_tick (n : Nat) (s : State) (h : s.mem.wf = true) : (s.tick n).mem.wf = true := wf_tickAll n _ _ h

/-- The cycles left are among those given. -/
theorem runEvents_left (es : List Event) : ∀ n level m, (runEvents es n level m).left ≤ n := by
  induction es with
  | nil => exact fun n _ _ => le_rfl
  | cons e rest ih =>
    intro n level m
    simp only [runEvents]
    split
    · split
      · exact (ih _ _ _).trans (Nat.sub_le _ _)
      · exact (ih _ _ _).trans (Nat.sub_le _ _)
      · exact Nat.sub_le _ _
    · exact le_rfl

/-- A peripheral receives every cycle of a tick (R452, R461). -/
theorem run_elapsed (k : Nat) : ∀ (n : Nat) (p : Peripheral) (m : Memory), (p.run k n m).1.elapsed = p.elapsed + n := by
  induction k with
  | zero => exact fun _ _ _ => rfl
  | succ k ih =>
    intro n p m
    have := runEvents_left p.events n p.level m
    simp only [Peripheral.run]
    split
    · refine (ih _ _ _).trans ?_
      simp only [Peripheral.take]
      omega
    · rfl

end Sys2Proof.Machine
end

