-- ==== Sys2Proof/Laws/Registers.lean ====
section
/-! SUPPORT. Registers: physical registers are apart, what a write of a register changes, the bank map, aligned pc values. -/

namespace Sys2Proof.Machine

theorem PhysReg.index_inj {p q : PhysReg} (h : p.index = q.index) : p = q := by
  cases p <;> cases q <;> first | rfl | exact absurd h (by decide)

theorem PhysReg.index_val_ne {p q : PhysReg} (h : p ≠ q) : p.index.val ≠ q.index.val := fun e =>
  h (PhysReg.index_inj (Fin.ext e))

@[simp] theorem phys_setPhys_same (p : PhysReg) (v : Word) (s : State) : (s.setPhys p v).phys p = v := by
  show (s.regs.set p.index.val v p.index.isLt)[p.index.val] = v
  simp

theorem phys_setPhys_ne {p q : PhysReg} (h : q ≠ p) (v : Word) (s : State) : (s.setPhys p v).phys q = s.phys q := by
  show (s.regs.set p.index.val v p.index.isLt)[q.index.val] = s.regs[q.index.val]
  simp [PhysReg.index_val_ne (Ne.symm h)]

theorem phys_setPhys (p q : PhysReg) (v : Word) (s : State) : (s.setPhys p v).phys q = if q = p then v else s.phys q := by
  split
  · next h => rw [h, phys_setPhys_same]
  · next h => exact phys_setPhys_ne h v s

/-- Two register files that read alike are equal. -/
theorem regs_ext {s t : State} (h : ∀ p, s.phys p = t.phys p) : s.regs = t.regs := by
  refine Vector.ext fun i hi => ?_
  have : ∃ p : PhysReg, p.index.val = i := by
    have : ∀ j : Fin 30, ∃ p : PhysReg, p.index = j := by
      intro j
      fin_cases j
      exacts [⟨.r0, rfl⟩, ⟨.r1, rfl⟩, ⟨.r2, rfl⟩, ⟨.r3, rfl⟩, ⟨.r4, rfl⟩, ⟨.r5, rfl⟩, ⟨.r6, rfl⟩, ⟨.r7, rfl⟩,
        ⟨.r8usr, rfl⟩, ⟨.r9usr, rfl⟩, ⟨.r10usr, rfl⟩, ⟨.r11usr, rfl⟩, ⟨.r12usr, rfl⟩, ⟨.r8fiq, rfl⟩, ⟨.r9fiq, rfl⟩,
        ⟨.r10fiq, rfl⟩, ⟨.r11fiq, rfl⟩, ⟨.r12fiq, rfl⟩, ⟨.r13usr, rfl⟩, ⟨.r14usr, rfl⟩, ⟨.r13fiq, rfl⟩, ⟨.r14fiq, rfl⟩,
        ⟨.r13irq, rfl⟩, ⟨.r14irq, rfl⟩, ⟨.r13svc, rfl⟩, ⟨.r14svc, rfl⟩, ⟨.r13abt, rfl⟩, ⟨.r14abt, rfl⟩, ⟨.r13und, rfl⟩,
        ⟨.r14und, rfl⟩]
    obtain ⟨p, hp⟩ := this ⟨i, hi⟩
    exact ⟨p, by rw [hp]⟩
  obtain ⟨p, rfl⟩ := this
  exact h p

/-! ## Reading and writing a slot -/

theorem readReg_of_ne {i : Reg} (h : i ≠ 15#4) (k : Word) (s : State) :
    readReg k i s = s.phys (physReg s.cpsr.mode i) := if_neg h

@[simp] theorem readReg_pc (k : Word) (s : State) : readReg k 15#4 s = s.pc + k := rfl

theorem writeReg_of_ne {i : Reg} (h : i ≠ 15#4) (v : Word) (s : State) :
    writeReg i v s = s.setPhys (physReg s.cpsr.mode i) v := if_neg h

@[simp] theorem writeReg_pc (v : Word) (s : State) : writeReg 15#4 v s = writePc v s := rfl

/-- A 3-bit field never names slot 15 (R325). -/
theorem LowReg.slot_ne_pc (r : LowReg) : r.slot ≠ 15#4 := by
  revert r
  decide

@[simp] theorem writeReg_cpsr (i : Reg) (v : Word) (s : State) : (writeReg i v s).cpsr = s.cpsr := by
  unfold writeReg; split <;> rfl
@[simp] theorem writeReg_spsrFiq (i : Reg) (v : Word) (s : State) : (writeReg i v s).spsrFiq = s.spsrFiq := by
  unfold writeReg; split <;> rfl
@[simp] theorem writeReg_spsrIrq (i : Reg) (v : Word) (s : State) : (writeReg i v s).spsrIrq = s.spsrIrq := by
  unfold writeReg; split <;> rfl
@[simp] theorem writeReg_spsrSvc (i : Reg) (v : Word) (s : State) : (writeReg i v s).spsrSvc = s.spsrSvc := by
  unfold writeReg; split <;> rfl
@[simp] theorem writeReg_spsrAbt (i : Reg) (v : Word) (s : State) : (writeReg i v s).spsrAbt = s.spsrAbt := by
  unfold writeReg; split <;> rfl
@[simp] theorem writeReg_spsrUnd (i : Reg) (v : Word) (s : State) : (writeReg i v s).spsrUnd = s.spsrUnd := by
  unfold writeReg; split <;> rfl
@[simp] theorem writeReg_halted (i : Reg) (v : Word) (s : State) : (writeReg i v s).halted = s.halted := by
  unfold writeReg; split <;> rfl
@[simp] theorem writeReg_mem (i : Reg) (v : Word) (s : State) : (writeReg i v s).mem = s.mem := by
  unfold writeReg; split <;> rfl
@[simp] theorem writeReg_lastAccess (i : Reg) (v : Word) (s : State) : (writeReg i v s).lastAccess = s.lastAccess := by
  unfold writeReg; split <;> rfl
@[simp] theorem writeReg_plat (i : Reg) (v : Word) (s : State) : (writeReg i v s).plat = s.plat := by
  unfold writeReg; split <;> rfl
@[simp] theorem writeReg_stepCost (i : Reg) (v : Word) (s : State) : (writeReg i v s).stepCost = s.stepCost := by
  unfold writeReg; split <;> rfl
@[simp] theorem writeReg_budget (i : Reg) (v : Word) (s : State) : (writeReg i v s).budget = s.budget := by
  unfold writeReg; split <;> rfl
@[simp] theorem writeReg_wrotePc (i : Reg) (v : Word) (s : State) : (writeReg i v s).wrotePc = (s.wrotePc || decide (i = 15#4)) := by
  unfold writeReg; split <;> simp [*]
@[simp] theorem writeReg_draws (i : Reg) (v : Word) (s : State) : (writeReg i v s).draws = s.draws := by
  unfold writeReg; split <;> rfl
@[simp] theorem spsr_writeReg (i : Reg) (v : Word) (b : ExcMode) (s : State) : (writeReg i v s).spsr b = s.spsr b := by
  cases b <;> simp [State.spsr]
@[simp] theorem writeUser_pc (i : Reg) (v : Word) (s : State) : (writeUser i v s).pc = s.pc := rfl
@[simp] theorem writeUser_cpsr (i : Reg) (v : Word) (s : State) : (writeUser i v s).cpsr = s.cpsr := rfl
@[simp] theorem writeUser_spsrFiq (i : Reg) (v : Word) (s : State) : (writeUser i v s).spsrFiq = s.spsrFiq := rfl
@[simp] theorem writeUser_spsrIrq (i : Reg) (v : Word) (s : State) : (writeUser i v s).spsrIrq = s.spsrIrq := rfl
@[simp] theorem writeUser_spsrSvc (i : Reg) (v : Word) (s : State) : (writeUser i v s).spsrSvc = s.spsrSvc := rfl
@[simp] theorem writeUser_spsrAbt (i : Reg) (v : Word) (s : State) : (writeUser i v s).spsrAbt = s.spsrAbt := rfl
@[simp] theorem writeUser_spsrUnd (i : Reg) (v : Word) (s : State) : (writeUser i v s).spsrUnd = s.spsrUnd := rfl
@[simp] theorem writeUser_halted (i : Reg) (v : Word) (s : State) : (writeUser i v s).halted = s.halted := rfl
@[simp] theorem writeUser_mem (i : Reg) (v : Word) (s : State) : (writeUser i v s).mem = s.mem := rfl
@[simp] theorem writeUser_lastAccess (i : Reg) (v : Word) (s : State) : (writeUser i v s).lastAccess = s.lastAccess := rfl
@[simp] theorem writeUser_plat (i : Reg) (v : Word) (s : State) : (writeUser i v s).plat = s.plat := rfl
@[simp] theorem writeUser_stepCost (i : Reg) (v : Word) (s : State) : (writeUser i v s).stepCost = s.stepCost := rfl
@[simp] theorem writeUser_budget (i : Reg) (v : Word) (s : State) : (writeUser i v s).budget = s.budget := rfl
@[simp] theorem writeUser_wrotePc (i : Reg) (v : Word) (s : State) : (writeUser i v s).wrotePc = s.wrotePc := rfl
@[simp] theorem writeUser_draws (i : Reg) (v : Word) (s : State) : (writeUser i v s).draws = s.draws := rfl

theorem writeReg_low (r : LowReg) (v : Word) (s : State) :
    writeReg r.slot v s = s.setPhys (physReg s.cpsr.mode r.slot) v := writeReg_of_ne (LowReg.slot_ne_pc r) v s

theorem readReg_low (k : Word) (r : LowReg) (s : State) :
    readReg k r.slot s = s.phys (physReg s.cpsr.mode r.slot) := readReg_of_ne (LowReg.slot_ne_pc r) k s

/-- A register write leaves every physical register but the one it names (R24). -/
theorem phys_writeReg_ne {i : Reg} {q : PhysReg} (h : q ≠ physReg s.cpsr.mode i) (v : Word) :
    (writeReg i v s).phys q = s.phys q := by
  unfold writeReg
  split
  · rfl
  · exact phys_setPhys_ne h v s

/-! ## The bank map -/

/-- The slots 0 to 7 are shared by all modes (R23). -/
theorem physReg_low (m : Mode) (r : LowReg) : physReg m r.slot = physReg .usr r.slot := by
  cases m <;> revert r <;> decide

theorem physReg_sys (i : Reg) : physReg .sys i = physReg .usr i := by
  revert i
  decide

/-- In one mode, two slots below 15 are two registers (R23). -/
theorem physReg_inj {m : Mode} {i j : Reg} (hi : i ≠ 15#4) (hj : j ≠ 15#4) (h : physReg m i = physReg m j) : i = j := by
  have key : ∀ i j : Reg, i ≠ 15#4 → j ≠ 15#4 → physReg m i = physReg m j → i = j := by
    cases m <;> decide
  exact key i j hi hj h

/-! ## Aligned addresses -/

theorem align_eq_shift (v : Word) (k : Nat) :
    v &&& ~~~(BitVec.ofNat 32 (2 ^ k - 1)) = v >>> k <<< k := by
  refine BitVec.eq_of_getLsbD_eq fun i hi => ?_
  simp only [BitVec.getLsbD_and, BitVec.getLsbD_not, BitVec.getLsbD_shiftLeft, BitVec.getLsbD_ofNat,
    BitVec.getLsbD_ushiftRight, Nat.testBit_two_pow_sub_one]
  by_cases h : i < k
  · simp [h, hi]
  · simp [h, hi, show k + (i - k) = i by omega]

/-- Aligning clears the address's remainder by the instruction width (R158). -/
theorem alignPc_toNat (t : Bool) (v : Word) :
    (alignPc t v).toNat = v.toNat - v.toNat % (if t then 2 else 4) := by
  have hv := v.isLt
  have key : ∀ k, (v >>> k <<< k).toNat = v.toNat - v.toNat % 2 ^ k := by
    intro k
    rw [BitVec.toNat_shiftLeft, BitVec.toNat_ushiftRight, Nat.shiftRight_eq_div_pow, Nat.shiftLeft_eq,
      Nat.mod_eq_of_lt (lt_of_le_of_lt (Nat.div_mul_le_self _ _) hv)]
    have := Nat.div_add_mod v.toNat (2 ^ k)
    rw [Nat.mul_comm] at this
    omega
  cases t
  · exact (congrArg BitVec.toNat (align_eq_shift v 2)).trans (key 2)
  · exact (congrArg BitVec.toNat (align_eq_shift v 1)).trans (key 1)

theorem alignPc_eq_self (t : Bool) (v : Word) : alignPc t v = v ↔ v.toNat % (if t then 2 else 4) = 0 := by
  have := Nat.mod_le v.toNat (if t then 2 else 4)
  rw [← BitVec.toNat_inj, alignPc_toNat]
  omega

theorem alignPc_idem (t : Bool) (v : Word) : alignPc t (alignPc t v) = alignPc t v := by
  cases t <;> simp [alignPc, BitVec.and_assoc]

/-- Advancing an aligned address by the instruction width leaves it aligned (R28, R152). -/
theorem alignPc_advance (t : Bool) (v : Word) (h : alignPc t v = v) :
    alignPc t (v + BitVec.ofNat 32 (if t then 2 else 4)) = v + BitVec.ofNat 32 (if t then 2 else 4) := by
  rw [alignPc_eq_self] at h ⊢
  rw [BitVec.toNat_add]
  cases t <;> simp at h ⊢ <;> omega

/-- The general registers after an entry: the link register of the mode entered, and no other, is written (R505). -/
theorem phys_enterException (cls : ExcClass) (ret : Word) (s : State) (p : PhysReg) :
    (enterException cls ret s).phys p =
      if p = physReg (excMode cls).mode 14#4 then ret + lrAdjust cls else s.phys p := by
  have e : (enterException cls ret s).phys p = (s.setPhys (physReg (excMode cls).mode 14#4) (ret + lrAdjust cls)).phys p := by
    simp [State.phys, State.setPhys]
  rw [e, phys_setPhys]

/-- The saved status registers after an entry (R505). -/
theorem spsr_enterException (cls : ExcClass) (ret : Word) (s : State) (b : ExcMode) :
    (enterException cls ret s).spsr b = if b = excMode cls then s.cpsr.save else s.spsr b := by
  cases cls <;> cases b <;> simp [State.spsr, excMode]

end Sys2Proof.Machine
end

