-- ==== Sys2Proof/Laws/Access.lean ====
section
/-! SUPPORT. Accesses: what one store puts where, what a load and a store leave alone, and the runs of a block transfer. -/

namespace Sys2Proof.Machine

/-! ## The bytes of a store -/

/-- The byte addresses of one access are different, whatever the address: they may wrap (R61). -/
theorem byteAddrs_nodup (a : Word) (w : Width) : (byteAddrs a w).Nodup := by
  cases w <;> simp [byteAddrs]

theorem map_fst_cells (a v : Word) (w : Width) : ((byteAddrs a w).zip (valueBytes v w)).map Prod.fst = byteAddrs a w := by
  cases w <;> rfl

/-- After a store of bytes to different addresses, each stands at its own, through the mask there (R74). -/
theorem Memory.read_storeBytes (masks : List Host.Cell) : ∀ (cells : List (Word × Byte)) (m : Memory), m.wf = true →
    (cells.map Prod.fst).Nodup → ∀ c ∈ cells,
      (m.storeBytes masks cells).read c.1.toNat = maskedByte (maskAt masks c.1.toNat) (m.read c.1.toNat) c.2 := by
  intro cells
  induction cells with
  | nil => exact fun _ _ _ c hc => absurd hc (by simp)
  | cons d rest ih =>
    intro m hm hn c hc
    rw [List.map_cons, List.nodup_cons] at hn
    show Memory.read (Memory.storeBytes masks (m.storeByte masks d.1 d.2) rest) _ = _
    rcases List.mem_cons.1 hc with rfl | hc
    · rw [Memory.read_storeBytes_ne masks rest]
      · exact Memory.read_write_same _ _ _ hm
      · exact fun e he q => hn.1 (List.mem_map.2 ⟨e, he, (BitVec.eq_of_toNat_eq q).symm⟩)
    · rw [ih _ (Memory.wf_storeByte masks m d.1 d.2 hm) hn.2 c hc, Memory.read_storeByte_ne masks m d.2]
      exact fun q => hn.1 (List.mem_map.2 ⟨c, hc, BitVec.eq_of_toNat_eq q⟩)

/-- A bit of a masked byte is the new one where the mask is 1, else the old one (R74). -/
theorem getLsbD_maskedByte (mask old new : Byte) (k : Nat) :
    (maskedByte mask old new).getLsbD k = if mask.getLsbD k then new.getLsbD k else old.getLsbD k := by
  by_cases hk : k < 8
  · simp only [maskedByte, BitVec.getLsbD_or, BitVec.getLsbD_and, BitVec.getLsbD_not, hk]
    cases mask.getLsbD k <;> simp
  · simp [BitVec.getLsbD_of_ge _ k (Nat.le_of_not_lt hk)]

/-! ## One store -/

/-- What one store leaves alone, and what the interface remembers of it (R63, R64). -/
theorem memWrite_rest (a : Word) (w : Width) (v : Word) (s : State) :
    let t := memWrite a w v s
    t.regs = s.regs ∧ t.pc = s.pc ∧ t.cpsr = s.cpsr ∧ (∀ b, t.spsr b = s.spsr b) ∧ t.budget = s.budget ∧
      t.wrotePc = s.wrotePc ∧ t.draws = s.draws ∧ t.lastAccess = some ⟨a, w⟩ ∧
      t.stepCost = s.stepCost + accessCycles s (writeRequest a w v) ∧ t.plat.writeMasks = s.plat.writeMasks ∧
      t.plat.haltWrites = s.plat.haltWrites ∧ t.plat.windows = s.plat.windows := by
  refine ⟨?_, ?_, ?_, fun b => ?_, ?_, ?_, ?_, ?_, ?_, ?_, ?_, ?_⟩ <;> try simp
  cases b <;> simp [State.spsr]

/-- Each byte of a stored value stands at its address, where no device is touched (R66, R74). -/
theorem memWrite_read (a : Word) (w : Width) (v : Word) (s : State) (hu : watchedBy s.plat.windows a w = false)
    (h : s.mem.wf = true) {c : Word × Byte} (hc : c ∈ (byteAddrs a w).zip (valueBytes v w)) :
    (memWrite a w v s).mem.read c.1.toNat =
      maskedByte (maskAt s.plat.writeMasks c.1.toNat) (s.mem.read c.1.toNat) c.2 := by
  rw [memWrite_mem_of_unwatched a w v s hu]
  exact Memory.read_storeBytes _ _ _ h (by rw [cellsOf, map_fst_cells]; exact byteAddrs_nodup a w) c hc

/-- Every other byte reads as before, but registers of devices (R77). -/
theorem memWrite_read_ne (a : Word) (w : Width) (v : Word) (s : State) {k : Nat} (h : ∀ b ∈ byteAddrs a w, k ≠ b.toNat)
    (hu : watchedBy s.plat.windows a w = false ∨ ∀ b : Word, b.toNat = k → ownedBy s.plat.windows b = false) :
    (memWrite a w v s).mem.read k = s.mem.read k := by
  have e : (s.stored a w v).mem.read k = s.mem.read k :=
    Memory.read_storeBytes_ne _ _ _ fun c hc => h c.1 (mem_zip_byteAddrs hc)
  rcases hu with hu | hu
  · rw [memWrite_mem_of_unwatched a w v s hu, e]
  · rw [memWrite_mem_eq, respondAll_read_ne _ _ _ _ hu, e]

/-- Where no device is touched, only the platform's halt writes ask for a halt (R83). -/
theorem haltAnswer_of_unwatched (a : Word) (w : Width) (v : Word) (s : State) (h : watchedBy s.plat.windows a w = false) :
    s.haltAnswer a w v = s.plat.haltRequest (cellsOf a w v) := by
  have e := congrArg Prod.snd (respondAll_unwatched (writeRequest a w v) (cellsOf a w v) s.plat.periphs s.mem h)
  rw [State.haltAnswer, e, Bool.or_false]

/-! ## What reading leaves alone -/

/-- The states agree on everything but what an access costs, and leaves with the interface and the devices and their registers. -/
structure Seen (s t : State) : Prop where
  regs : t.regs = s.regs
  pc : t.pc = s.pc
  cpsr : t.cpsr = s.cpsr
  spsr : ∀ b, t.spsr b = s.spsr b
  halted : t.halted = s.halted
  windows : t.plat.windows = s.plat.windows
  kept : ∀ n : Nat, (∀ b : Word, b.toNat = n → ownedBy s.plat.windows b = false) → t.mem.read n = s.mem.read n
  budget : t.budget = s.budget
  wrotePc : t.wrotePc = s.wrotePc
  draws : t.draws = s.draws
  masks : t.plat.writeMasks = s.plat.writeMasks
  halts : t.plat.haltWrites = s.plat.haltWrites

namespace Seen

theorem refl (s : State) : Seen s s := ⟨rfl, rfl, rfl, fun _ => rfl, rfl, rfl, fun _ _ => rfl, rfl, rfl, rfl, rfl, rfl⟩

theorem trans {s t u : State} (h : Seen s t) (k : Seen t u) : Seen s u where
  regs := k.regs.trans h.regs
  pc := k.pc.trans h.pc
  cpsr := k.cpsr.trans h.cpsr
  spsr b := (k.spsr b).trans (h.spsr b)
  halted := k.halted.trans h.halted
  windows := k.windows.trans h.windows
  kept n hn := (k.kept n (h.windows ▸ hn)).trans (h.kept n hn)
  budget := k.budget.trans h.budget
  wrotePc := k.wrotePc.trans h.wrotePc
  draws := k.draws.trans h.draws
  masks := k.masks.trans h.masks
  halts := k.halts.trans h.halts

theorem memRead (a : Word) (w : Width) (s : State) : Seen s (memRead a w s).2 :=
  ⟨rfl, rfl, rfl, fun b => by cases b <;> rfl, rfl, by simp, fun _ h => memRead_read_ne a w s h, rfl, rfl, rfl, rfl, rfl⟩

theorem loadAt (k : LoadKind) (ea : Word) (s : State) : Seen s (loadAt k ea s).2 := by
  cases k
  case signedHalf =>
    show Seen s (loadSignedHalf ea s).2
    unfold loadSignedHalf
    split
    · exact memRead _ _ s
    · exact memRead _ _ s
  all_goals exact memRead _ _ s

theorem loadSlots (slots : List Reg) : ∀ (a : Word) (s : State), Seen s (loadSlots slots a s).2 := by
  induction slots with
  | nil => exact fun _ s => refl s
  | cons r rest ih => exact fun a s => (memRead (wordAligned a) .word s).trans (ih _ _)

end Seen

/-! ## Block transfers -/

theorem length_slotsOf (list : BitVec 16) :
    (slotsOf list).length = ((List.range 16).filter fun k => list.getLsbD k).length := by
  rw [slotsOf, List.length_map]

/-- A slot is transferred exactly when its bit is set (R281). -/
theorem mem_slotsOf (list : BitVec 16) (r : Reg) : r ∈ slotsOf list ↔ list.getLsbD r.toNat = true := by
  simp only [slotsOf, List.mem_map, List.mem_filter, List.mem_range]
  constructor
  · rintro ⟨k, ⟨hk, h⟩, rfl⟩
    rwa [BitVec.toNat_ofNat, Nat.mod_eq_of_lt (by omega)]
  · exact fun h => ⟨r.toNat, ⟨by omega, h⟩, by simp⟩

/-- The accesses of a block load: where no device is touched, slot `k` of the list is read from plain memory at `4k` bytes from the
start, and memory stays (R281). -/
theorem loadSlots_values (slots : List Reg) : ∀ (a : Word) (s : State),
    (∀ k < slots.length, watchedBy s.plat.windows (wordAligned (a + BitVec.ofNat 32 (4 * k))) .word = false) →
    (loadSlots slots a s).2.mem = s.mem ∧ (loadSlots slots a s).1 =
      slots.zipIdx.map fun x => (x.1, s.mem.load (wordAligned (a + BitVec.ofNat 32 (4 * x.2))) .word) := by
  suffices ∀ (n : Nat) (a : Word) (s : State),
      (∀ k < slots.length, watchedBy s.plat.windows (wordAligned (a + BitVec.ofNat 32 (4 * (n + k)))) .word = false) →
      (loadSlots slots (a + BitVec.ofNat 32 (4 * n)) s).2.mem = s.mem ∧ (loadSlots slots (a + BitVec.ofNat 32 (4 * n)) s).1 =
      (slots.zipIdx n).map fun x => (x.1, s.mem.load (wordAligned (a + BitVec.ofNat 32 (4 * x.2))) .word) by
    intro a s h
    simpa using this 0 a s (by simpa using h)
  induction slots with
  | nil => exact fun _ _ _ _ => ⟨rfl, rfl⟩
  | cons r rest ih =>
    intro n a s hu
    have h : a + BitVec.ofNat 32 (4 * n) + 4#32 = a + BitVec.ofNat 32 (4 * (n + 1)) := by
      rw [BitVec.add_assoc, Nat.mul_succ, BitVec.ofNat_add]
    have e := memRead_mem_of_unwatched (wordAligned (a + BitVec.ofNat 32 (4 * n))) .word s (hu 0 (by simp))
    obtain ⟨i1, i2⟩ := ih (n + 1) a (memRead (wordAligned (a + BitVec.ofNat 32 (4 * n))) .word s).2 fun k hk => by
      rw [memRead_windows, Nat.add_assoc, Nat.add_comm 1 k]
      exact hu (k + 1) (by simpa using hk)
    rw [e] at i1 i2
    rw [List.zipIdx_cons, List.map_cons]
    unfold loadSlots
    dsimp only
    rw [h, i1, i2, memRead_value, e]
    exact ⟨rfl, rfl⟩

/-- What writing a list of slots leaves: each listed slot its value, every register outside the bank, the status
registers and memory as they were; slot 15 is a write of pc (R283). -/
theorem writeSlots_spec (g : Reg → Word) : ∀ (l : List Reg) (s : State),
    let t := writeSlots writeReg (l.map fun r => (r, g r)) s
    t.cpsr = s.cpsr ∧ (∀ b, t.spsr b = s.spsr b) ∧ t.mem = s.mem ∧ t.halted = s.halted ∧ t.budget = s.budget ∧
      (∀ r, r ≠ 15#4 → t.phys (physReg s.cpsr.mode r) = if r ∈ l then g r else s.phys (physReg s.cpsr.mode r)) ∧
      (∀ p, (∀ r, r ≠ 15#4 → p ≠ physReg s.cpsr.mode r) → t.phys p = s.phys p) ∧
      t.pc = if 15#4 ∈ l then alignPc s.cpsr.t (g 15#4) else s.pc := by
  intro l
  induction l with
  | nil => exact fun s => ⟨rfl, fun _ => rfl, rfl, rfl, rfl, fun r _ => by simp [writeSlots], fun p _ => rfl,
      by simp [writeSlots]⟩
  | cons a l ih =>
    intro s
    obtain ⟨i1, i2, i3, i4, i5, i6, i7, i8⟩ := ih (writeReg a (g a) s)
    simp only [writeReg_cpsr] at i6 i7 i8
    refine ⟨i1.trans (by simp), fun b => (i2 b).trans (by simp), i3.trans (by simp), i4.trans (by simp), i5.trans (by simp),
      fun r hr => ?_, fun p hp => ?_, ?_⟩
    · refine (i6 r hr).trans ?_
      by_cases h : a = 15#4
      · subst h
        simp [hr, writePc, State.phys]
      · rw [writeReg_of_ne h, phys_setPhys]
        by_cases e : r = a
        · simp [e]
        · have : physReg s.cpsr.mode r ≠ physReg s.cpsr.mode a := fun q => e (physReg_inj hr h q)
          simp [e, this]
    · refine (i7 p hp).trans ?_
      by_cases h : a = 15#4
      · subst h
        rfl
      · rw [writeReg_of_ne h, phys_setPhys_ne (hp a h)]
    · refine i8.trans ?_
      by_cases h : a = 15#4
      · subst h
        simp [writePc]
      · rw [writeReg_of_ne h]
        simp [Ne.symm h, State.setPhys]

/-! ### Who owes a refill (R157): only a write of slot 15 sets the mark. -/

theorem writeSlots_wrotePc (g : Reg → Word) : ∀ (l : List Reg) (s : State),
    (writeSlots writeReg (l.map fun r => (r, g r)) s).wrotePc = (s.wrotePc || decide (15#4 ∈ l)) := by
  intro l
  induction l with
  | nil => exact fun s => (Bool.or_false _).symm
  | cons a l ih =>
    intro s
    rw [List.map_cons, writeSlots, ih, writeReg_wrotePc, Bool.or_assoc, ← Bool.decide_or]
    simp only [List.mem_cons, eq_comm]

@[simp] theorem writeSlots_user_wrotePc (l : List (Reg × Word)) : ∀ s : State, (writeSlots writeUser l s).wrotePc = s.wrotePc := by
  induction l with
  | nil => exact fun _ => rfl
  | cons c l ih => exact fun s => (ih _).trans rfl

@[simp] theorem storeSlots_wrotePc (value : Reg → State → Word) (slots : List Reg) :
    ∀ (a : Word) (s : State), (storeSlots value slots a s).wrotePc = s.wrotePc := by
  induction slots with
  | nil => exact fun _ _ => rfl
  | cons r rest ih => exact fun a s => (ih _ _).trans (memWrite_wrotePc _ _ _ s)

@[simp] theorem blockWriteBack_wrotePc (w : Bool) (rn : Reg) (wb : Word) (s : State) :
    (blockWriteBack w rn wb s).wrotePc = (s.wrotePc || decide (w = true ∧ rn = 15#4)) := by
  unfold blockWriteBack
  split <;> simp [*]

/-- What the stores of a block transfer leave alone (R281). -/
theorem storeSlots_rest (value : Reg → State → Word) (slots : List Reg) : ∀ (a : Word) (s : State),
    let t := storeSlots value slots a s
    t.regs = s.regs ∧ t.pc = s.pc ∧ t.cpsr = s.cpsr ∧ (∀ b, t.spsr b = s.spsr b) ∧ t.budget = s.budget ∧
      t.plat.writeMasks = s.plat.writeMasks ∧ t.plat.haltWrites = s.plat.haltWrites ∧ t.plat.windows = s.plat.windows := by
  induction slots with
  | nil => exact fun _ _ => ⟨rfl, rfl, rfl, fun _ => rfl, rfl, rfl, rfl, rfl⟩
  | cons r rest ih =>
    intro a s
    obtain ⟨h1, h2, h3, h4, h5, h6, h7, h8⟩ := ih (a + 4#32) (memWrite (wordAligned a) .word (value r s) s)
    obtain ⟨k1, k2, k3, k4, k5, _, _, _, _, k6, k7, k8⟩ := memWrite_rest (wordAligned a) .word (value r s) s
    exact ⟨h1.trans k1, h2.trans k2, h3.trans k3, fun b => (h4 b).trans (k4 b), h5.trans k5, h6.trans k6, h7.trans k7, h8.trans k8⟩

/-- A byte outside the words of a block transfer's stores reads as before, but registers of devices (R77, R281). -/
theorem storeSlots_read_ne (value : Reg → State → Word) (slots : List Reg) : ∀ (a : Word) (s : State) (n : Nat),
    (∀ k < slots.length, ∀ b ∈ byteAddrs (wordAligned (a + BitVec.ofNat 32 (4 * k))) .word, n ≠ b.toNat) →
    ((∀ k < slots.length, watchedBy s.plat.windows (wordAligned (a + BitVec.ofNat 32 (4 * k))) .word = false) ∨
      ∀ b : Word, b.toNat = n → ownedBy s.plat.windows b = false) →
    (storeSlots value slots a s).mem.read n = s.mem.read n := by
  induction slots with
  | nil => exact fun _ _ _ _ _ => rfl
  | cons r rest ih =>
    intro a s n h hu
    have e (k : Nat) : a + 4#32 + BitVec.ofNat 32 (4 * k) = a + BitVec.ofNat 32 (4 * (k + 1)) := by
      rw [Nat.mul_succ, BitVec.ofNat_add, BitVec.add_comm (BitVec.ofNat 32 (4 * k)), ← BitVec.add_assoc]
    unfold storeSlots
    rw [ih, memWrite_read_ne]
    · exact fun b hb => h 0 (by simp) b (by simpa using hb)
    · exact hu.imp (fun g => by simpa using g 0 (by simp)) id
    · exact fun k hk => e k ▸ h (k + 1) (by simpa using hk)
    · rw [memWrite_windows]
      exact hu.imp (fun g k hk => e k ▸ g (k + 1) (by simpa using hk)) id

end Sys2Proof.Machine
end

