-- ==== Sys2Proof/Laws/Evolve.lean ====
section
/-! SUPPORT. What an instruction can do, said once: every instruction that goes on is plain (`Plain`), or its last act is
one of the four that touch the control fields of the CPSR or an SPSR: an exception entry, BX, an exception return, MSR. -/

namespace Sys2Proof.Machine

/-- What every act of a meaning but those four leaves alone. -/
structure Plain (s t : State) : Prop where
  irqMask : t.cpsr.i = s.cpsr.i
  fiqMask : t.cpsr.f = s.cpsr.f
  thumb : t.cpsr.t = s.cpsr.t
  mode : t.cpsr.mode = s.cpsr.mode
  spsr : ∀ b, t.spsr b = s.spsr b
  budget : t.budget = s.budget
  wf : s.mem.wf = true → t.mem.wf = true
  aligned : alignPc s.cpsr.t s.pc = s.pc → alignPc s.cpsr.t t.pc = t.pc
  bank : ∀ p, (∀ i, p ≠ physReg s.cpsr.mode i ∧ p ≠ physReg .usr i) → t.phys p = s.phys p
  elapsed : t.plat.periphs.map Peripheral.elapsed = s.plat.periphs.map Peripheral.elapsed
  masks : t.plat.writeMasks = s.plat.writeMasks
  halts : t.plat.haltWrites = s.plat.haltWrites
  cost : s.stepCost ≤ t.stepCost
  halted : s.halted = true → t.halted = true
  mark : t.pc ≠ s.pc → t.wrotePc = true
  markStays : s.wrotePc = true → t.wrotePc = true

namespace Plain

theorem refl (s : State) : Plain s s :=
  ⟨rfl, rfl, rfl, rfl, fun _ => rfl, rfl, id, id, fun _ _ => rfl, rfl, rfl, rfl, le_rfl, id, fun h => absurd rfl h, id⟩

theorem trans {s t u : State} (h : Plain s t) (k : Plain t u) : Plain s u where
  irqMask := k.irqMask.trans h.irqMask
  fiqMask := k.fiqMask.trans h.fiqMask
  thumb := k.thumb.trans h.thumb
  mode := k.mode.trans h.mode
  spsr b := (k.spsr b).trans (h.spsr b)
  budget := k.budget.trans h.budget
  wf := k.wf ∘ h.wf
  aligned a := h.thumb ▸ k.aligned (h.thumb ▸ h.aligned a)
  bank p hp := (k.bank p (h.mode ▸ hp)).trans (h.bank p hp)
  elapsed := k.elapsed.trans h.elapsed
  masks := k.masks.trans h.masks
  halts := k.halts.trans h.halts
  cost := h.cost.trans k.cost
  halted := k.halted ∘ h.halted
  mark hne := by
    by_cases e : u.pc = t.pc
    · exact k.markStays (h.mark (e ▸ hne))
    · exact k.mark e
  markStays := k.markStays ∘ h.markStays

/-! ## The acts of a meaning -/

theorem charge (c : CostCategory) (mc : Nat) (s : State) : Plain s (s.charge c mc) := by
  constructor <;> simp

theorem setFlags (o : AluOut) (s : State) : Plain s (setFlags o s) := by
  constructor <;> simp [Cpsr.withResult, State.spsr]

theorem writePc (v : Word) (s : State) : Plain s (writePc v s) := by
  constructor <;> simp [alignPc_idem, State.spsr]

theorem writeReg (i : Reg) (v : Word) (s : State) : Plain s (writeReg i v s) := by
  by_cases h : i = 15#4
  · subst h
    exact writePc v s
  · rw [writeReg_of_ne h]
    constructor <;> simp
    exact fun p hp => phys_setPhys_ne (hp i).1 v s

theorem writeUser (i : Reg) (v : Word) (s : State) : Plain s (writeUser i v s) := by
  unfold Machine.writeUser
  constructor <;> simp
  exact fun p hp => phys_setPhys_ne (hp i).2 v s

theorem memRead (a : Word) (w : Width) (s : State) : Plain s (memRead a w s).2 := by
  constructor <;> try simp [State.spsr]
  · exact memRead_wf a w s

theorem memWrite (a : Word) (w : Width) (v : Word) (s : State) : Plain s (memWrite a w v s) := by
  constructor <;> try simp [State.spsr]
  · exact memWrite_wf a w v s
  · exact fun h => .inl h

theorem draw (n : Nat) (s : State) : Plain s { s with draws := n } :=
  ⟨rfl, rfl, rfl, rfl, fun b => by cases b <;> rfl, rfl, id, id, fun _ _ => rfl, rfl, rfl, rfl, le_rfl, id,
    fun h => absurd rfl h, id⟩

theorem drawFlags (p : Cpsr) (n : Nat) (s : State) (hi : p.i = s.cpsr.i) (hf : p.f = s.cpsr.f) (ht : p.t = s.cpsr.t)
    (hm : p.mode = s.cpsr.mode) : Plain s { s with cpsr := p, draws := n } :=
  ⟨hi, hf, ht, hm, fun b => by cases b <;> rfl, rfl, id, id, fun _ _ => rfl, rfl, rfl, rfl, le_rfl, id,
    fun h => absurd rfl h, id⟩

/-! ## Loads and stores -/

theorem loadAt (k : LoadKind) (ea : Word) (s : State) : Plain s (loadAt k ea s).2 := by
  cases k
  · exact memRead _ _ s
  · exact memRead _ _ s
  · exact memRead _ _ s
  · exact memRead _ _ s
  · unfold Machine.loadAt loadSignedHalf
    dsimp only
    split
    · exact memRead _ _ s
    · exact memRead _ _ s

theorem storeAt (w : Width) (ea v : Word) (s : State) : Plain s (storeAt w ea v s) := memWrite _ _ _ s

theorem writeBack (m : Addressing) (rn : Reg) (s : State) : Plain s (m.writeBack rn s) := by
  unfold Addressing.writeBack
  split
  · exact writeReg _ _ s
  · exact refl s

theorem singleLoad (k : LoadKind) (m : Addressing) (rn rd : Reg) (s : State) : Plain s (singleLoad k m rn rd s) :=
  (((loadAt k m.ea s).trans (writeBack m rn _)).trans (writeReg rd _ _)).trans (charge _ _ _)

theorem singleStore (w : Width) (m : Addressing) (rn : Reg) (v : Word) (s : State) : Plain s (singleStore w m rn v s) :=
  ((storeAt w m.ea v s).trans (writeBack m rn _)).trans (charge _ _ _)

theorem swap (k : LoadKind) (w : Width) (ea v : Word) (rd : Reg) (s : State) : Plain s (swap k w ea v rd s) :=
  (((loadAt k ea s).trans (storeAt w ea v _)).trans (writeReg rd _ _)).trans (charge _ _ _)

theorem loadSlots (slots : List Reg) : ∀ (a : Word) (s : State), Plain s (loadSlots slots a s).2 := by
  induction slots with
  | nil => exact fun _ s => refl s
  | cons r rest ih => exact fun a s => (memRead (wordAligned a) .word s).trans (ih _ _)

theorem storeSlots (value : Reg → State → Word) (slots : List Reg) :
    ∀ (a : Word) (s : State), Plain s (storeSlots value slots a s) := by
  induction slots with
  | nil => exact fun _ s => refl s
  | cons r rest ih => exact fun a s => (memWrite (wordAligned a) .word (value r s) s).trans (ih _ _)

theorem writeSlots {put : Reg → Word → State → State} (hput : ∀ r v s, Plain s (put r v s)) (l : List (Reg × Word)) :
    ∀ s : State, Plain s (writeSlots put l s) := by
  induction l with
  | nil => exact fun s => refl s
  | cons x rest ih => exact fun s => (hput x.1 x.2 s).trans (ih _)

theorem blockWriteBack (w : Bool) (rn : Reg) (wb : Word) (s : State) : Plain s (blockWriteBack w rn wb s) := by
  unfold Machine.blockWriteBack
  split
  · exact writeReg _ _ s
  · exact refl s

theorem storeBlock (value : Reg → State → Word) (w : Bool) (rn : Reg) (wb : Word) (slots : List Reg) (a : Word) (s : State) :
    Plain s (storeBlock value (Machine.blockWriteBack w rn wb) slots a s) := by
  cases slots with
  | nil => exact refl s
  | cons r rest =>
    exact ((memWrite (wordAligned a) .word (value r s) s).trans (blockWriteBack w rn wb _)).trans (storeSlots value rest _ _)

theorem thumbStoreBlock (rb : LowReg) (slots : List Reg) (base : Word) (s : State) :
    Plain s (thumbStoreBlock rb slots base s) := by
  cases slots with
  | nil => exact refl s
  | cons r rest =>
    exact ((memWrite (wordAligned base) .word _ s).trans (writeReg rb.slot _ _)).trans (storeSlots _ rest _ _)

/-! ## Results of data processing and multiplies -/

theorem thumbWrite (rd : LowReg) (o : AluOut) (s : State) : Plain s (thumbWrite rd o s) :=
  (writeReg rd.slot o.r s).trans (setFlags o _)

theorem mulWrite (sBit : Bool) (rd : Reg) (r : Word) (s : State) : Plain s (mulWrite sBit rd r s) := by
  unfold Machine.mulWrite
  split
  · exact (writeReg rd r s).trans (drawFlags _ _ _ rfl rfl rfl rfl)
  · exact writeReg rd r s

theorem mullWrite (sBit : Bool) (lo hi : Reg) (p : BitVec 64) (s : State) : Plain s (mullWrite sBit lo hi p s) := by
  have h := (writeReg lo (p.extractLsb' 0 32) s).trans (writeReg hi (p.extractLsb' 32 32) _)
  unfold Machine.mullWrite
  dsimp only
  split
  · exact h.trans (drawFlags _ _ _ rfl rfl rfl rfl)
  · exact h

theorem mrsDraw (r : Bool) (s : State) : Plain s (mrsDraw r s) := by
  unfold Machine.mrsDraw
  split
  · exact draw _ s
  · exact refl s

theorem condBranch (c : Cond) (o : BitVec 8) (s : State) : Plain s (condBranch c o s) := by
  unfold Machine.condBranch
  split
  · exact (charge _ _ s).trans (writePc _ _)
  · exact refl s

end Plain

/-- What an instruction that goes on has done: plain acts, and at most one of four last acts. -/
inductive Acts (i : Instr) (s t : State) : Prop where
  | plain (h : Plain s t)
  | raised (r : i.raises = true) (cls : ExcClass) (hc : cls = .undefined ∨ cls = .swi) (u : State) (h : Plain s u)
      (hpc : u.pc = s.pc) (hu : u.regs = s.regs) (hm : u.mem = s.mem) (hp : u.cpsr = s.cpsr)
      (ht : t = enterException cls u.pc u)
  | exchanged (r : i.exchanges = true) (v : Word) (u : State) (h : Plain s u) (ht : t = branchExchange v u)
  | returned (r : i.returns = true) (v : Word) (u : State) (h : Plain s u) (ht : exceptionReturn v u = .next t)
  | statusWritten (r : i.writesStatus = true) (spsr : Bool) (mask : BitVec 4) (v : Word) (u : State) (h : Plain s u)
      (ht : msr spsr mask v u = .next t)

/-- A guarded instruction that goes on did nothing, or ran its body. -/
theorem guarded_next {c : Cond} {body : State → Result} {s t : State} (h : guarded c body s = .next t) :
    t = s ∨ condPassed c s.cpsr = true ∧ body s = .next t := by
  unfold guarded at h
  split at h
  · next hc => exact .inr ⟨hc, h⟩
  · exact .inl (Host.Outcome.next.inj h).symm

theorem guarded_passed {c : Cond} {s : State} (body : State → Result) (h : condPassed c s.cpsr = true) :
    guarded c body s = body s := if_pos h

theorem guarded_failed {c : Cond} {s : State} (body : State → Result) (h : condPassed c s.cpsr = false) :
    guarded c body s = .next s := by
  simp [guarded, h]

namespace Acts

/-- A guarded instruction whose body answers one plain state. -/
theorem ofGuarded {i : Instr} {c : Cond} {body : State → State} (hb : ∀ s, Plain s (body s)) {s t : State}
    (h : guarded c (fun s => .next (body s)) s = .next t) : Acts i s t := by
  rcases guarded_next h with rfl | ⟨_, h⟩
  · exact .plain (.refl _)
  · exact .plain (Host.Outcome.next.inj h ▸ hb s)

theorem ofNext {i : Instr} {s t u : State} (hb : Plain s u) (h : (Host.Outcome.next u : Result) = .next t) : Acts i s t :=
  .plain (Host.Outcome.next.inj h ▸ hb)

theorem ofDp {i : Instr} {c : Cond} {sBit : Bool} {rd : Reg} {o : State → AluOut} {k : CostCategory} {s t : State}
    (hr : (sBit && rd == 15#4) = true → i.returns = true)
    (h : guarded c (fun s => dpWrite sBit rd (o s) (s.charge k)) s = .next t) : Acts i s t := by
  rcases guarded_next h with rfl | ⟨_, h⟩
  · exact .plain (.refl _)
  · unfold dpWrite at h
    split at h
    · next hrd =>
      split at h
      · next hs => exact .returned (hr (by simp [hs, hrd])) _ _ (.charge k 0 s) h
      · exact ofNext ((Plain.charge k 0 s).trans (.writePc _ _)) h
    · refine ofNext ((Plain.charge k 0 s).trans ?_) h
      split
      · exact (Plain.writeReg _ _ _).trans (.setFlags _ _)
      · exact Plain.writeReg _ _ _

theorem ofCompare {i : Instr} {c : Cond} {o : State → AluOut} {k : CostCategory} {s t : State}
    (h : guarded c (fun s => .next (Machine.setFlags (o s) (s.charge k))) s = .next t) : Acts i s t :=
  ofGuarded (fun s => (Plain.charge k 0 s).trans (.setFlags (o s) _)) h

theorem ofUndefined {i : Instr} {s t : State} (r : i.raises = true) (h : takeUndefined s = .next t) : Acts i s t :=
  .raised r .undefined (.inl rfl) (s.charge .trap) (.charge _ _ s) rfl rfl rfl rfl (Host.Outcome.next.inj h).symm

theorem ofSwi {i : Instr} {s t : State} (r : i.raises = true) (h : takeSwi s = .next t) : Acts i s t :=
  .raised r .swi (.inr rfl) (s.charge .trap) (.charge _ _ s) rfl rfl rfl rfl (Host.Outcome.next.inj h).symm

theorem ofGuardedRaise {i : Instr} {c : Cond} {body : State → Result} {s t : State}
    (hb : ∀ s t, body s = .next t → Acts i s t) (h : guarded c body s = .next t) : Acts i s t := by
  rcases guarded_next h with rfl | ⟨_, h⟩
  · exact .plain (.refl _)
  · exact hb _ _ h

theorem ofMsr {i : Instr} {c : Cond} {r : Bool} {m : BitVec 4} {v : State → Word} {s t : State}
    (hi : i.writesStatus = true) (h : guarded c (fun s => msr r m (v s) (s.charge .psr)) s = .next t) : Acts i s t := by
  rcases guarded_next h with rfl | ⟨_, h⟩
  · exact .plain (.refl _)
  · exact .statusWritten hi r m (v s) (s.charge .psr) (.charge _ _ s) h

theorem ofMul {i : Instr} {c : Cond} {sBit : Bool} {rd : Reg} {r : State → Word} {k : CostCategory} {mc : State → Nat}
    {s t : State} (h : guarded c (fun s => .next (Machine.mulWrite sBit rd (r s) (s.charge k (mc s)))) s = .next t) :
    Acts i s t :=
  ofGuarded (fun s => (Plain.charge k (mc s) s).trans (.mulWrite sBit rd _ _)) h

theorem ofMull {i : Instr} {c : Cond} {sBit : Bool} {lo hi : Reg} {p : State → BitVec 64} {k : CostCategory}
    {mc : State → Nat} {s t : State}
    (h : guarded c (fun s => .next (Machine.mullWrite sBit lo hi (p s) (s.charge k (mc s)))) s = .next t) : Acts i s t :=
  ofGuarded (fun s => (Plain.charge k (mc s) s).trans (.mullWrite sBit lo hi _ _)) h

theorem ofStm {i : Instr} {f : BdtFields} {s t : State} (h : guarded f.cond (stmBody f) s = .next t) : Acts i s t := by
  rcases guarded_next h with rfl | ⟨_, h⟩
  · exact .plain (.refl _)
  · unfold stmBody at h
    dsimp only at h
    split at h
    · exact nomatch h
    · exact ofNext ((Plain.storeBlock _ _ _ _ _ _ s).trans (.charge _ _ _)) h

theorem ofStmUser {i : Instr} {f : BdtFields} {s t : State} (h : guarded f.cond (stmUserBody f) s = .next t) :
    Acts i s t := by
  rcases guarded_next h with rfl | ⟨_, h⟩
  · exact .plain (.refl _)
  · unfold stmUserBody at h
    dsimp only at h
    split at h
    · exact nomatch h
    · split at h
      · exact nomatch h
      · exact ofNext ((Plain.storeSlots _ _ _ s).trans (.charge _ _ _)) h

theorem ofLdm {i : Instr} {f : BdtFields} {s t : State} (h : guarded f.cond (ldmBody f) s = .next t) : Acts i s t := by
  rcases guarded_next h with rfl | ⟨_, h⟩
  · exact .plain (.refl _)
  · unfold ldmBody at h
    dsimp only at h
    split at h
    · exact nomatch h
    · exact ofNext ((((Plain.loadSlots _ _ s).trans (.blockWriteBack _ _ _ _)).trans (.writeSlots Plain.writeReg _ _)).trans
        (.charge _ _ _)) h

theorem ofLdmUser {i : Instr} {f : BdtLowFields} {s t : State} (h : guarded f.cond (ldmUserBody f) s = .next t) :
    Acts i s t := by
  rcases guarded_next h with rfl | ⟨_, h⟩
  · exact .plain (.refl _)
  · unfold ldmUserBody at h
    dsimp only at h
    split at h
    · exact nomatch h
    · split at h
      · exact nomatch h
      · exact ofNext (((Plain.loadSlots _ _ s).trans (.writeSlots Plain.writeUser _ _)).trans (.charge _ _ _)) h

theorem ofLdmReturn {i : Instr} {f : BdtLowFields} {s t : State} (hi : i.returns = true)
    (h : guarded f.cond (ldmReturnBody f) s = .next t) : Acts i s t := by
  rcases guarded_next h with rfl | ⟨_, h⟩
  · exact .plain (.refl _)
  · exact .returned hi _ _ (((((Plain.loadSlots _ _ s).trans (.memRead _ _ _)).trans (.blockWriteBack _ _ _ _)).trans
      (.writeSlots Plain.writeReg _ _)).trans (.charge _ _ _)) h

theorem ofPush {i : Instr} {r : Bool} {l : BitVec 8} {s t : State} (h : execTPush r l s = .next t) : Acts i s t := by
  unfold execTPush at h
  dsimp only at h
  split at h
  · exact nomatch h
  · exact ofNext (((Plain.storeSlots _ _ _ s).trans (.writeReg _ _ _)).trans (.charge _ _ _)) h

theorem ofPop {i : Instr} {r : Bool} {l : BitVec 8} {s t : State} (h : execTPop r l s = .next t) : Acts i s t := by
  unfold execTPop at h
  dsimp only at h
  split at h
  · exact nomatch h
  · exact ofNext ((((Plain.loadSlots _ _ s).trans (.writeSlots Plain.writeReg _ _)).trans (.writeReg _ _ _)).trans
      (.charge _ _ _)) h

theorem ofStmia {i : Instr} {rb : LowReg} {l : BitVec 8} {s t : State} (h : execTStmia rb l s = .next t) : Acts i s t := by
  unfold execTStmia at h
  split at h
  · exact nomatch h
  · exact ofNext ((Plain.thumbStoreBlock _ _ _ s).trans (.charge _ _ _)) h

theorem ofLdmia {i : Instr} {rb : LowReg} {l : BitVec 8} {s t : State} (h : execTLdmia rb l s = .next t) : Acts i s t := by
  unfold execTLdmia at h
  dsimp only at h
  split at h
  · exact nomatch h
  · refine ofNext (Plain.trans ?_ (.charge _ _ _)) h
    have hw := (Plain.loadSlots (lowSlots l) (low rb s) s).trans
      (.writeSlots Plain.writeReg (loadSlots (lowSlots l) (low rb s) s).1 _)
    split
    · exact hw
    · exact hw.trans (.writeReg _ _ _)

end Acts

/-! ## One lemma per instruction -/

theorem acts_andImm {f : DpImm} {s t : State}
    (h : execAndImm f s = .next t) : Acts (.andImm f) s t := .ofDp id h

theorem acts_andReg {f : DpReg} {s t : State}
    (h : execAndReg f s = .next t) : Acts (.andReg f) s t := .ofDp id h

theorem acts_andRsr {f : DpRsr} {s t : State}
    (h : execAndRsr f s = .next t) : Acts (.andRsr f) s t := .ofDp id h

theorem acts_eorImm {f : DpImm} {s t : State}
    (h : execEorImm f s = .next t) : Acts (.eorImm f) s t := .ofDp id h

theorem acts_eorReg {f : DpReg} {s t : State}
    (h : execEorReg f s = .next t) : Acts (.eorReg f) s t := .ofDp id h

theorem acts_eorRsr {f : DpRsr} {s t : State}
    (h : execEorRsr f s = .next t) : Acts (.eorRsr f) s t := .ofDp id h

theorem acts_subImm {f : DpImm} {s t : State}
    (h : execSubImm f s = .next t) : Acts (.subImm f) s t := .ofDp id h

theorem acts_subReg {f : DpReg} {s t : State}
    (h : execSubReg f s = .next t) : Acts (.subReg f) s t := .ofDp id h

theorem acts_subRsr {f : DpRsr} {s t : State}
    (h : execSubRsr f s = .next t) : Acts (.subRsr f) s t := .ofDp id h

theorem acts_rsbImm {f : DpImm} {s t : State}
    (h : execRsbImm f s = .next t) : Acts (.rsbImm f) s t := .ofDp id h

theorem acts_rsbReg {f : DpReg} {s t : State}
    (h : execRsbReg f s = .next t) : Acts (.rsbReg f) s t := .ofDp id h

theorem acts_rsbRsr {f : DpRsr} {s t : State}
    (h : execRsbRsr f s = .next t) : Acts (.rsbRsr f) s t := .ofDp id h

theorem acts_addImm {f : DpImm} {s t : State}
    (h : execAddImm f s = .next t) : Acts (.addImm f) s t := .ofDp id h

theorem acts_addReg {f : DpReg} {s t : State}
    (h : execAddReg f s = .next t) : Acts (.addReg f) s t := .ofDp id h

theorem acts_addRsr {f : DpRsr} {s t : State}
    (h : execAddRsr f s = .next t) : Acts (.addRsr f) s t := .ofDp id h

theorem acts_adcImm {f : DpImm} {s t : State}
    (h : execAdcImm f s = .next t) : Acts (.adcImm f) s t := .ofDp id h

theorem acts_adcReg {f : DpReg} {s t : State}
    (h : execAdcReg f s = .next t) : Acts (.adcReg f) s t := .ofDp id h

theorem acts_adcRsr {f : DpRsr} {s t : State}
    (h : execAdcRsr f s = .next t) : Acts (.adcRsr f) s t := .ofDp id h

theorem acts_sbcImm {f : DpImm} {s t : State}
    (h : execSbcImm f s = .next t) : Acts (.sbcImm f) s t := .ofDp id h

theorem acts_sbcReg {f : DpReg} {s t : State}
    (h : execSbcReg f s = .next t) : Acts (.sbcReg f) s t := .ofDp id h

theorem acts_sbcRsr {f : DpRsr} {s t : State}
    (h : execSbcRsr f s = .next t) : Acts (.sbcRsr f) s t := .ofDp id h

theorem acts_rscImm {f : DpImm} {s t : State}
    (h : execRscImm f s = .next t) : Acts (.rscImm f) s t := .ofDp id h

theorem acts_rscReg {f : DpReg} {s t : State}
    (h : execRscReg f s = .next t) : Acts (.rscReg f) s t := .ofDp id h

theorem acts_rscRsr {f : DpRsr} {s t : State}
    (h : execRscRsr f s = .next t) : Acts (.rscRsr f) s t := .ofDp id h

theorem acts_tstImm {f : CmpImm} {s t : State}
    (h : execTstImm f s = .next t) : Acts (.tstImm f) s t := .ofCompare h

theorem acts_tstReg {f : CmpReg} {s t : State}
    (h : execTstReg f s = .next t) : Acts (.tstReg f) s t := .ofCompare h

theorem acts_tstRsr {f : CmpRsr} {s t : State}
    (h : execTstRsr f s = .next t) : Acts (.tstRsr f) s t := .ofCompare h

theorem acts_teqImm {f : CmpImm} {s t : State}
    (h : execTeqImm f s = .next t) : Acts (.teqImm f) s t := .ofCompare h

theorem acts_teqReg {f : CmpReg} {s t : State}
    (h : execTeqReg f s = .next t) : Acts (.teqReg f) s t := .ofCompare h

theorem acts_teqRsr {f : CmpRsr} {s t : State}
    (h : execTeqRsr f s = .next t) : Acts (.teqRsr f) s t := .ofCompare h

theorem acts_cmpImm {f : CmpImm} {s t : State}
    (h : execCmpImm f s = .next t) : Acts (.cmpImm f) s t := .ofCompare h

theorem acts_cmpReg {f : CmpReg} {s t : State}
    (h : execCmpReg f s = .next t) : Acts (.cmpReg f) s t := .ofCompare h

theorem acts_cmpRsr {f : CmpRsr} {s t : State}
    (h : execCmpRsr f s = .next t) : Acts (.cmpRsr f) s t := .ofCompare h

theorem acts_cmnImm {f : CmpImm} {s t : State}
    (h : execCmnImm f s = .next t) : Acts (.cmnImm f) s t := .ofCompare h

theorem acts_cmnReg {f : CmpReg} {s t : State}
    (h : execCmnReg f s = .next t) : Acts (.cmnReg f) s t := .ofCompare h

theorem acts_cmnRsr {f : CmpRsr} {s t : State}
    (h : execCmnRsr f s = .next t) : Acts (.cmnRsr f) s t := .ofCompare h

theorem acts_orrImm {f : DpImm} {s t : State}
    (h : execOrrImm f s = .next t) : Acts (.orrImm f) s t := .ofDp id h

theorem acts_orrReg {f : DpReg} {s t : State}
    (h : execOrrReg f s = .next t) : Acts (.orrReg f) s t := .ofDp id h

theorem acts_orrRsr {f : DpRsr} {s t : State}
    (h : execOrrRsr f s = .next t) : Acts (.orrRsr f) s t := .ofDp id h

theorem acts_movImm {f : DpImm} {s t : State}
    (h : execMovImm f s = .next t) : Acts (.movImm f) s t := .ofDp id h

theorem acts_movReg {f : DpReg} {s t : State}
    (h : execMovReg f s = .next t) : Acts (.movReg f) s t := .ofDp id h

theorem acts_movRsr {f : DpRsr} {s t : State}
    (h : execMovRsr f s = .next t) : Acts (.movRsr f) s t := .ofDp id h

theorem acts_bicImm {f : DpImm} {s t : State}
    (h : execBicImm f s = .next t) : Acts (.bicImm f) s t := .ofDp id h

theorem acts_bicReg {f : DpReg} {s t : State}
    (h : execBicReg f s = .next t) : Acts (.bicReg f) s t := .ofDp id h

theorem acts_bicRsr {f : DpRsr} {s t : State}
    (h : execBicRsr f s = .next t) : Acts (.bicRsr f) s t := .ofDp id h

theorem acts_mvnImm {f : DpImm} {s t : State}
    (h : execMvnImm f s = .next t) : Acts (.mvnImm f) s t := .ofDp id h

theorem acts_mvnReg {f : DpReg} {s t : State}
    (h : execMvnReg f s = .next t) : Acts (.mvnReg f) s t := .ofDp id h

theorem acts_mvnRsr {f : DpRsr} {s t : State}
    (h : execMvnRsr f s = .next t) : Acts (.mvnRsr f) s t := .ofDp id h

theorem acts_mrs {f : MrsFields} {s t : State}
    (h : execMrs f s = .next t) : Acts (.mrs f) s t := .ofGuarded (fun s => ((Plain.charge .psr 0 s).trans (.mrsDraw _ _)).trans (.writeReg _ _ _)) h

theorem acts_msrReg {f : MsrRegFields} {s t : State}
    (h : execMsrReg f s = .next t) : Acts (.msrReg f) s t := .ofMsr rfl h

theorem acts_msrImm {f : MsrImmFields} {s t : State}
    (h : execMsrImm f s = .next t) : Acts (.msrImm f) s t := .ofMsr rfl h

theorem acts_bx {f : BxFields} {s t : State}
    (h : execBx f s = .next t) : Acts (.bx f) s t := by
  rcases guarded_next h with rfl | ⟨_, h⟩
  · exact .plain (.refl _)
  · exact .exchanged rfl _ _ (.charge _ _ s) (Host.Outcome.next.inj h).symm

theorem acts_mul {f : MulFields} {s t : State}
    (h : execMul f s = .next t) : Acts (.mul f) s t := .ofMul h

theorem acts_mla {f : MulFields} {s t : State}
    (h : execMla f s = .next t) : Acts (.mla f) s t := .ofMul h

theorem acts_umull {f : MullFields} {s t : State}
    (h : execUmull f s = .next t) : Acts (.umull f) s t := .ofMull h

theorem acts_umlal {f : MullFields} {s t : State}
    (h : execUmlal f s = .next t) : Acts (.umlal f) s t := .ofMull h

theorem acts_smull {f : MullFields} {s t : State}
    (h : execSmull f s = .next t) : Acts (.smull f) s t := .ofMull h

theorem acts_smlal {f : MullFields} {s t : State}
    (h : execSmlal f s = .next t) : Acts (.smlal f) s t := .ofMull h

theorem acts_swp {f : SwpFields} {s t : State}
    (h : execSwp f s = .next t) : Acts (.swp f) s t := .ofGuarded (fun s => .swap _ _ _ _ _ s) h

theorem acts_swpb {f : SwpFields} {s t : State}
    (h : execSwpb f s = .next t) : Acts (.swpb f) s t := .ofGuarded (fun s => .swap _ _ _ _ _ s) h

theorem acts_strhReg {f : HsReg} {s t : State}
    (h : execStrhReg f s = .next t) : Acts (.strhReg f) s t := .ofGuarded (fun s => .singleStore _ _ _ _ s) h

theorem acts_strhImm {f : HsImm} {s t : State}
    (h : execStrhImm f s = .next t) : Acts (.strhImm f) s t := .ofGuarded (fun s => .singleStore _ _ _ _ s) h

theorem acts_ldrhReg {f : HsReg} {s t : State}
    (h : execLdrhReg f s = .next t) : Acts (.ldrhReg f) s t := .ofGuarded (fun s => .singleLoad _ _ _ _ s) h

theorem acts_ldrhImm {f : HsImm} {s t : State}
    (h : execLdrhImm f s = .next t) : Acts (.ldrhImm f) s t := .ofGuarded (fun s => .singleLoad _ _ _ _ s) h

theorem acts_ldrsbReg {f : HsReg} {s t : State}
    (h : execLdrsbReg f s = .next t) : Acts (.ldrsbReg f) s t := .ofGuarded (fun s => .singleLoad _ _ _ _ s) h

theorem acts_ldrsbImm {f : HsImm} {s t : State}
    (h : execLdrsbImm f s = .next t) : Acts (.ldrsbImm f) s t := .ofGuarded (fun s => .singleLoad _ _ _ _ s) h

theorem acts_ldrshReg {f : HsReg} {s t : State}
    (h : execLdrshReg f s = .next t) : Acts (.ldrshReg f) s t := .ofGuarded (fun s => .singleLoad _ _ _ _ s) h

theorem acts_ldrshImm {f : HsImm} {s t : State}
    (h : execLdrshImm f s = .next t) : Acts (.ldrshImm f) s t := .ofGuarded (fun s => .singleLoad _ _ _ _ s) h

theorem acts_ldrImmPre {f : SdtImmPre} {s t : State}
    (h : execLdrImmPre f s = .next t) : Acts (.ldrImmPre f) s t := .ofGuarded (fun s => .singleLoad _ _ _ _ s) h

theorem acts_ldrImmPost {f : SdtImmPost} {s t : State}
    (h : execLdrImmPost f s = .next t) : Acts (.ldrImmPost f) s t := .ofGuarded (fun s => .singleLoad _ _ _ _ s) h

theorem acts_ldrtImm {f : SdtImmPost} {s t : State}
    (h : execLdrtImm f s = .next t) : Acts (.ldrtImm f) s t := .ofGuarded (fun s => .singleLoad _ _ _ _ s) h

theorem acts_strImmPre {f : SdtImmPre} {s t : State}
    (h : execStrImmPre f s = .next t) : Acts (.strImmPre f) s t := .ofGuarded (fun s => .singleStore _ _ _ _ s) h

theorem acts_strImmPost {f : SdtImmPost} {s t : State}
    (h : execStrImmPost f s = .next t) : Acts (.strImmPost f) s t := .ofGuarded (fun s => .singleStore _ _ _ _ s) h

theorem acts_strtImm {f : SdtImmPost} {s t : State}
    (h : execStrtImm f s = .next t) : Acts (.strtImm f) s t := .ofGuarded (fun s => .singleStore _ _ _ _ s) h

theorem acts_ldrbImmPre {f : SdtImmPre} {s t : State}
    (h : execLdrbImmPre f s = .next t) : Acts (.ldrbImmPre f) s t := .ofGuarded (fun s => .singleLoad _ _ _ _ s) h

theorem acts_ldrbImmPost {f : SdtImmPost} {s t : State}
    (h : execLdrbImmPost f s = .next t) : Acts (.ldrbImmPost f) s t := .ofGuarded (fun s => .singleLoad _ _ _ _ s) h

theorem acts_ldrbtImm {f : SdtImmPost} {s t : State}
    (h : execLdrbtImm f s = .next t) : Acts (.ldrbtImm f) s t := .ofGuarded (fun s => .singleLoad _ _ _ _ s) h

theorem acts_strbImmPre {f : SdtImmPre} {s t : State}
    (h : execStrbImmPre f s = .next t) : Acts (.strbImmPre f) s t := .ofGuarded (fun s => .singleStore _ _ _ _ s) h

theorem acts_strbImmPost {f : SdtImmPost} {s t : State}
    (h : execStrbImmPost f s = .next t) : Acts (.strbImmPost f) s t := .ofGuarded (fun s => .singleStore _ _ _ _ s) h

theorem acts_strbtImm {f : SdtImmPost} {s t : State}
    (h : execStrbtImm f s = .next t) : Acts (.strbtImm f) s t := .ofGuarded (fun s => .singleStore _ _ _ _ s) h

theorem acts_ldrRegPre {f : SdtRegPre} {s t : State}
    (h : execLdrRegPre f s = .next t) : Acts (.ldrRegPre f) s t := .ofGuarded (fun s => .singleLoad _ _ _ _ s) h

theorem acts_ldrRegPost {f : SdtRegPost} {s t : State}
    (h : execLdrRegPost f s = .next t) : Acts (.ldrRegPost f) s t := .ofGuarded (fun s => .singleLoad _ _ _ _ s) h

theorem acts_ldrtReg {f : SdtRegPost} {s t : State}
    (h : execLdrtReg f s = .next t) : Acts (.ldrtReg f) s t := .ofGuarded (fun s => .singleLoad _ _ _ _ s) h

theorem acts_strRegPre {f : SdtRegPre} {s t : State}
    (h : execStrRegPre f s = .next t) : Acts (.strRegPre f) s t := .ofGuarded (fun s => .singleStore _ _ _ _ s) h

theorem acts_strRegPost {f : SdtRegPost} {s t : State}
    (h : execStrRegPost f s = .next t) : Acts (.strRegPost f) s t := .ofGuarded (fun s => .singleStore _ _ _ _ s) h

theorem acts_strtReg {f : SdtRegPost} {s t : State}
    (h : execStrtReg f s = .next t) : Acts (.strtReg f) s t := .ofGuarded (fun s => .singleStore _ _ _ _ s) h

theorem acts_ldrbRegPre {f : SdtRegPre} {s t : State}
    (h : execLdrbRegPre f s = .next t) : Acts (.ldrbRegPre f) s t := .ofGuarded (fun s => .singleLoad _ _ _ _ s) h

theorem acts_ldrbRegPost {f : SdtRegPost} {s t : State}
    (h : execLdrbRegPost f s = .next t) : Acts (.ldrbRegPost f) s t := .ofGuarded (fun s => .singleLoad _ _ _ _ s) h

theorem acts_ldrbtReg {f : SdtRegPost} {s t : State}
    (h : execLdrbtReg f s = .next t) : Acts (.ldrbtReg f) s t := .ofGuarded (fun s => .singleLoad _ _ _ _ s) h

theorem acts_strbRegPre {f : SdtRegPre} {s t : State}
    (h : execStrbRegPre f s = .next t) : Acts (.strbRegPre f) s t := .ofGuarded (fun s => .singleStore _ _ _ _ s) h

theorem acts_strbRegPost {f : SdtRegPost} {s t : State}
    (h : execStrbRegPost f s = .next t) : Acts (.strbRegPost f) s t := .ofGuarded (fun s => .singleStore _ _ _ _ s) h

theorem acts_strbtReg {f : SdtRegPost} {s t : State}
    (h : execStrbtReg f s = .next t) : Acts (.strbtReg f) s t := .ofGuarded (fun s => .singleStore _ _ _ _ s) h

theorem acts_ldm {f : BdtFields} {s t : State}
    (h : execLdm f s = .next t) : Acts (.ldm f) s t := .ofLdm h

theorem acts_ldmUser {f : BdtLowFields} {s t : State}
    (h : execLdmUser f s = .next t) : Acts (.ldmUser f) s t := .ofLdmUser h

theorem acts_ldmReturn {f : BdtLowFields} {s t : State}
    (h : execLdmReturn f s = .next t) : Acts (.ldmReturn f) s t := .ofLdmReturn rfl h

theorem acts_stm {f : BdtFields} {s t : State}
    (h : execStm f s = .next t) : Acts (.stm f) s t := .ofStm h

theorem acts_stmUser {f : BdtFields} {s t : State}
    (h : execStmUser f s = .next t) : Acts (.stmUser f) s t := .ofStmUser h

theorem acts_b {f : BranchFields} {s t : State}
    (h : execB f s = .next t) : Acts (.b f) s t := .ofGuarded (fun s => (Plain.charge .branch 0 s).trans (.writePc _ _)) h

theorem acts_bl {f : BranchFields} {s t : State}
    (h : execBl f s = .next t) : Acts (.bl f) s t := .ofGuarded (fun s => ((Plain.charge .branch 0 s).trans (.writeReg _ _ _)).trans (.writePc _ _)) h

theorem acts_stc {f : CpdtFields} {s t : State}
    (h : execStc f s = .next t) : Acts (.stc f) s t := .ofGuardedRaise (fun _ _ => .ofUndefined rfl) h

theorem acts_ldc {f : CpdtFields} {s t : State}
    (h : execLdc f s = .next t) : Acts (.ldc f) s t := .ofGuardedRaise (fun _ _ => .ofUndefined rfl) h

theorem acts_cdp {f : CdpFields} {s t : State}
    (h : execCdp f s = .next t) : Acts (.cdp f) s t := .ofGuardedRaise (fun _ _ => .ofUndefined rfl) h

theorem acts_mcr {f : CrtFields} {s t : State}
    (h : execMcr f s = .next t) : Acts (.mcr f) s t := .ofGuardedRaise (fun _ _ => .ofUndefined rfl) h

theorem acts_mrc {f : CrtFields} {s t : State}
    (h : execMrc f s = .next t) : Acts (.mrc f) s t := .ofGuardedRaise (fun _ _ => .ofUndefined rfl) h

theorem acts_swi {f : SwiFields} {s t : State}
    (h : execSwi f s = .next t) : Acts (.swi f) s t := .ofGuardedRaise (fun _ _ => .ofSwi rfl) h

theorem acts_und {f : UndFields} {s t : State}
    (h : execUnd f s = .next t) : Acts (.und f) s t := .ofGuardedRaise (fun _ _ => .ofUndefined rfl) h

theorem acts_tLslImm {offset5 : BitVec 5} {rs : LowReg} {rd : LowReg} {s t : State}
    (h : execTLslImm offset5 rs rd s = .next t) : Acts (.tLslImm offset5 rs rd) s t := .ofNext ((Plain.charge .alu 0 s).trans (.thumbWrite _ _ _)) h

theorem acts_tLsrImm {offset5 : BitVec 5} {rs : LowReg} {rd : LowReg} {s t : State}
    (h : execTLsrImm offset5 rs rd s = .next t) : Acts (.tLsrImm offset5 rs rd) s t := .ofNext ((Plain.charge .alu 0 s).trans (.thumbWrite _ _ _)) h

theorem acts_tAsrImm {offset5 : BitVec 5} {rs : LowReg} {rd : LowReg} {s t : State}
    (h : execTAsrImm offset5 rs rd s = .next t) : Acts (.tAsrImm offset5 rs rd) s t := .ofNext ((Plain.charge .alu 0 s).trans (.thumbWrite _ _ _)) h

theorem acts_tAddReg {rn : LowReg} {rs : LowReg} {rd : LowReg} {s t : State}
    (h : execTAddReg rn rs rd s = .next t) : Acts (.tAddReg rn rs rd) s t := .ofNext ((Plain.charge .alu 0 s).trans (.thumbWrite _ _ _)) h

theorem acts_tSubReg {rn : LowReg} {rs : LowReg} {rd : LowReg} {s t : State}
    (h : execTSubReg rn rs rd s = .next t) : Acts (.tSubReg rn rs rd) s t := .ofNext ((Plain.charge .alu 0 s).trans (.thumbWrite _ _ _)) h

theorem acts_tAddImm3 {imm3 : BitVec 3} {rs : LowReg} {rd : LowReg} {s t : State}
    (h : execTAddImm3 imm3 rs rd s = .next t) : Acts (.tAddImm3 imm3 rs rd) s t := .ofNext ((Plain.charge .alu 0 s).trans (.thumbWrite _ _ _)) h

theorem acts_tSubImm3 {imm3 : BitVec 3} {rs : LowReg} {rd : LowReg} {s t : State}
    (h : execTSubImm3 imm3 rs rd s = .next t) : Acts (.tSubImm3 imm3 rs rd) s t := .ofNext ((Plain.charge .alu 0 s).trans (.thumbWrite _ _ _)) h

theorem acts_tMovImm8 {rd : LowReg} {imm8 : BitVec 8} {s t : State}
    (h : execTMovImm8 rd imm8 s = .next t) : Acts (.tMovImm8 rd imm8) s t := .ofNext ((Plain.charge .alu 0 s).trans (.thumbWrite _ _ _)) h

theorem acts_tCmpImm8 {rd : LowReg} {imm8 : BitVec 8} {s t : State}
    (h : execTCmpImm8 rd imm8 s = .next t) : Acts (.tCmpImm8 rd imm8) s t := .ofNext ((Plain.charge .alu 0 s).trans (.setFlags _ _)) h

theorem acts_tAddImm8 {rd : LowReg} {imm8 : BitVec 8} {s t : State}
    (h : execTAddImm8 rd imm8 s = .next t) : Acts (.tAddImm8 rd imm8) s t := .ofNext ((Plain.charge .alu 0 s).trans (.thumbWrite _ _ _)) h

theorem acts_tSubImm8 {rd : LowReg} {imm8 : BitVec 8} {s t : State}
    (h : execTSubImm8 rd imm8 s = .next t) : Acts (.tSubImm8 rd imm8) s t := .ofNext ((Plain.charge .alu 0 s).trans (.thumbWrite _ _ _)) h

theorem acts_tAnd {rs : LowReg} {rd : LowReg} {s t : State}
    (h : execTAnd rs rd s = .next t) : Acts (.tAnd rs rd) s t := .ofNext ((Plain.charge .alu 0 s).trans (.thumbWrite _ _ _)) h

theorem acts_tEor {rs : LowReg} {rd : LowReg} {s t : State}
    (h : execTEor rs rd s = .next t) : Acts (.tEor rs rd) s t := .ofNext ((Plain.charge .alu 0 s).trans (.thumbWrite _ _ _)) h

theorem acts_tLsl {rs : LowReg} {rd : LowReg} {s t : State}
    (h : execTLsl rs rd s = .next t) : Acts (.tLsl rs rd) s t := .ofNext ((Plain.charge .aluRshift 0 s).trans (.thumbWrite _ _ _)) h

theorem acts_tLsr {rs : LowReg} {rd : LowReg} {s t : State}
    (h : execTLsr rs rd s = .next t) : Acts (.tLsr rs rd) s t := .ofNext ((Plain.charge .aluRshift 0 s).trans (.thumbWrite _ _ _)) h

theorem acts_tAsr {rs : LowReg} {rd : LowReg} {s t : State}
    (h : execTAsr rs rd s = .next t) : Acts (.tAsr rs rd) s t := .ofNext ((Plain.charge .aluRshift 0 s).trans (.thumbWrite _ _ _)) h

theorem acts_tAdc {rs : LowReg} {rd : LowReg} {s t : State}
    (h : execTAdc rs rd s = .next t) : Acts (.tAdc rs rd) s t := .ofNext ((Plain.charge .alu 0 s).trans (.thumbWrite _ _ _)) h

theorem acts_tSbc {rs : LowReg} {rd : LowReg} {s t : State}
    (h : execTSbc rs rd s = .next t) : Acts (.tSbc rs rd) s t := .ofNext ((Plain.charge .alu 0 s).trans (.thumbWrite _ _ _)) h

theorem acts_tRor {rs : LowReg} {rd : LowReg} {s t : State}
    (h : execTRor rs rd s = .next t) : Acts (.tRor rs rd) s t := .ofNext ((Plain.charge .aluRshift 0 s).trans (.thumbWrite _ _ _)) h

theorem acts_tTst {rs : LowReg} {rd : LowReg} {s t : State}
    (h : execTTst rs rd s = .next t) : Acts (.tTst rs rd) s t := .ofNext ((Plain.charge .alu 0 s).trans (.setFlags _ _)) h

theorem acts_tNeg {rs : LowReg} {rd : LowReg} {s t : State}
    (h : execTNeg rs rd s = .next t) : Acts (.tNeg rs rd) s t := .ofNext ((Plain.charge .alu 0 s).trans (.thumbWrite _ _ _)) h

theorem acts_tCmp {rs : LowReg} {rd : LowReg} {s t : State}
    (h : execTCmp rs rd s = .next t) : Acts (.tCmp rs rd) s t := .ofNext ((Plain.charge .alu 0 s).trans (.setFlags _ _)) h

theorem acts_tCmn {rs : LowReg} {rd : LowReg} {s t : State}
    (h : execTCmn rs rd s = .next t) : Acts (.tCmn rs rd) s t := .ofNext ((Plain.charge .alu 0 s).trans (.setFlags _ _)) h

theorem acts_tOrr {rs : LowReg} {rd : LowReg} {s t : State}
    (h : execTOrr rs rd s = .next t) : Acts (.tOrr rs rd) s t := .ofNext ((Plain.charge .alu 0 s).trans (.thumbWrite _ _ _)) h

theorem acts_tMul {rs : LowReg} {rd : LowReg} {s t : State}
    (h : execTMul rs rd s = .next t) : Acts (.tMul rs rd) s t := .ofNext (((Plain.charge .mul _ s).trans (.thumbWrite _ _ _)).trans (.draw _ _)) h

theorem acts_tBic {rs : LowReg} {rd : LowReg} {s t : State}
    (h : execTBic rs rd s = .next t) : Acts (.tBic rs rd) s t := .ofNext ((Plain.charge .alu 0 s).trans (.thumbWrite _ _ _)) h

theorem acts_tMvn {rs : LowReg} {rd : LowReg} {s t : State}
    (h : execTMvn rs rd s = .next t) : Acts (.tMvn rs rd) s t := .ofNext ((Plain.charge .alu 0 s).trans (.thumbWrite _ _ _)) h

theorem acts_tAddHi {h1 : Bool} {h2 : Bool} {rs : LowReg} {rd : LowReg} {s t : State}
    (h : execTAddHi h1 h2 rs rd s = .next t) : Acts (.tAddHi h1 h2 rs rd) s t := .ofNext ((Plain.charge .alu 0 s).trans (.writeReg _ _ _)) h

theorem acts_tCmpHi {h1 : Bool} {h2 : Bool} {rs : LowReg} {rd : LowReg} {s t : State}
    (h : execTCmpHi h1 h2 rs rd s = .next t) : Acts (.tCmpHi h1 h2 rs rd) s t := .ofNext ((Plain.charge .alu 0 s).trans (.setFlags _ _)) h

theorem acts_tMovHi {h1 : Bool} {h2 : Bool} {rs : LowReg} {rd : LowReg} {s t : State}
    (h : execTMovHi h1 h2 rs rd s = .next t) : Acts (.tMovHi h1 h2 rs rd) s t := .ofNext ((Plain.charge .alu 0 s).trans (.writeReg _ _ _)) h

theorem acts_tBx {h2 : Bool} {rs : LowReg} {sbz : BitVec 3} {s t : State}
    (h : execTBx h2 rs sbz s = .next t) : Acts (.tBx h2 rs sbz) s t := .exchanged rfl _ _ (.charge _ _ s) (Host.Outcome.next.inj h).symm

theorem acts_tLdrPc {rd : LowReg} {word8 : BitVec 8} {s t : State}
    (h : execTLdrPc rd word8 s = .next t) : Acts (.tLdrPc rd word8) s t := .ofNext (((Plain.loadAt _ _ s).trans (.writeReg _ _ _)).trans (.charge _ _ _)) h

theorem acts_tStrReg {ro : LowReg} {rb : LowReg} {rd : LowReg} {s t : State}
    (h : execTStrReg ro rb rd s = .next t) : Acts (.tStrReg ro rb rd) s t := .ofNext ((Plain.storeAt _ _ _ s).trans (.charge _ _ _)) h

theorem acts_tStrbReg {ro : LowReg} {rb : LowReg} {rd : LowReg} {s t : State}
    (h : execTStrbReg ro rb rd s = .next t) : Acts (.tStrbReg ro rb rd) s t := .ofNext ((Plain.storeAt _ _ _ s).trans (.charge _ _ _)) h

theorem acts_tLdrReg {ro : LowReg} {rb : LowReg} {rd : LowReg} {s t : State}
    (h : execTLdrReg ro rb rd s = .next t) : Acts (.tLdrReg ro rb rd) s t := .ofNext (((Plain.loadAt _ _ s).trans (.writeReg _ _ _)).trans (.charge _ _ _)) h

theorem acts_tLdrbReg {ro : LowReg} {rb : LowReg} {rd : LowReg} {s t : State}
    (h : execTLdrbReg ro rb rd s = .next t) : Acts (.tLdrbReg ro rb rd) s t := .ofNext (((Plain.loadAt _ _ s).trans (.writeReg _ _ _)).trans (.charge _ _ _)) h

theorem acts_tStrhReg {ro : LowReg} {rb : LowReg} {rd : LowReg} {s t : State}
    (h : execTStrhReg ro rb rd s = .next t) : Acts (.tStrhReg ro rb rd) s t := .ofNext ((Plain.storeAt _ _ _ s).trans (.charge _ _ _)) h

theorem acts_tLdsbReg {ro : LowReg} {rb : LowReg} {rd : LowReg} {s t : State}
    (h : execTLdsbReg ro rb rd s = .next t) : Acts (.tLdsbReg ro rb rd) s t := .ofNext (((Plain.loadAt _ _ s).trans (.writeReg _ _ _)).trans (.charge _ _ _)) h

theorem acts_tLdrhReg {ro : LowReg} {rb : LowReg} {rd : LowReg} {s t : State}
    (h : execTLdrhReg ro rb rd s = .next t) : Acts (.tLdrhReg ro rb rd) s t := .ofNext (((Plain.loadAt _ _ s).trans (.writeReg _ _ _)).trans (.charge _ _ _)) h

theorem acts_tLdshReg {ro : LowReg} {rb : LowReg} {rd : LowReg} {s t : State}
    (h : execTLdshReg ro rb rd s = .next t) : Acts (.tLdshReg ro rb rd) s t := .ofNext (((Plain.loadAt _ _ s).trans (.writeReg _ _ _)).trans (.charge _ _ _)) h

theorem acts_tStrImm {offset5 : BitVec 5} {rb : LowReg} {rd : LowReg} {s t : State}
    (h : execTStrImm offset5 rb rd s = .next t) : Acts (.tStrImm offset5 rb rd) s t := .ofNext ((Plain.storeAt _ _ _ s).trans (.charge _ _ _)) h

theorem acts_tLdrImm {offset5 : BitVec 5} {rb : LowReg} {rd : LowReg} {s t : State}
    (h : execTLdrImm offset5 rb rd s = .next t) : Acts (.tLdrImm offset5 rb rd) s t := .ofNext (((Plain.loadAt _ _ s).trans (.writeReg _ _ _)).trans (.charge _ _ _)) h

theorem acts_tStrbImm {offset5 : BitVec 5} {rb : LowReg} {rd : LowReg} {s t : State}
    (h : execTStrbImm offset5 rb rd s = .next t) : Acts (.tStrbImm offset5 rb rd) s t := .ofNext ((Plain.storeAt _ _ _ s).trans (.charge _ _ _)) h

theorem acts_tLdrbImm {offset5 : BitVec 5} {rb : LowReg} {rd : LowReg} {s t : State}
    (h : execTLdrbImm offset5 rb rd s = .next t) : Acts (.tLdrbImm offset5 rb rd) s t := .ofNext (((Plain.loadAt _ _ s).trans (.writeReg _ _ _)).trans (.charge _ _ _)) h

theorem acts_tStrhImm {offset5 : BitVec 5} {rb : LowReg} {rd : LowReg} {s t : State}
    (h : execTStrhImm offset5 rb rd s = .next t) : Acts (.tStrhImm offset5 rb rd) s t := .ofNext ((Plain.storeAt _ _ _ s).trans (.charge _ _ _)) h

theorem acts_tLdrhImm {offset5 : BitVec 5} {rb : LowReg} {rd : LowReg} {s t : State}
    (h : execTLdrhImm offset5 rb rd s = .next t) : Acts (.tLdrhImm offset5 rb rd) s t := .ofNext (((Plain.loadAt _ _ s).trans (.writeReg _ _ _)).trans (.charge _ _ _)) h

theorem acts_tStrSp {rd : LowReg} {word8 : BitVec 8} {s t : State}
    (h : execTStrSp rd word8 s = .next t) : Acts (.tStrSp rd word8) s t := .ofNext ((Plain.storeAt _ _ _ s).trans (.charge _ _ _)) h

theorem acts_tLdrSp {rd : LowReg} {word8 : BitVec 8} {s t : State}
    (h : execTLdrSp rd word8 s = .next t) : Acts (.tLdrSp rd word8) s t := .ofNext (((Plain.loadAt _ _ s).trans (.writeReg _ _ _)).trans (.charge _ _ _)) h

theorem acts_tAddPc {rd : LowReg} {word8 : BitVec 8} {s t : State}
    (h : execTAddPc rd word8 s = .next t) : Acts (.tAddPc rd word8) s t := .ofNext ((Plain.charge .alu 0 s).trans (.writeReg _ _ _)) h

theorem acts_tAddSp {rd : LowReg} {word8 : BitVec 8} {s t : State}
    (h : execTAddSp rd word8 s = .next t) : Acts (.tAddSp rd word8) s t := .ofNext ((Plain.charge .alu 0 s).trans (.writeReg _ _ _)) h

theorem acts_tIncSp {sword7 : BitVec 7} {s t : State}
    (h : execTIncSp sword7 s = .next t) : Acts (.tIncSp sword7) s t := .ofNext ((Plain.charge .alu 0 s).trans (.writeReg _ _ _)) h

theorem acts_tDecSp {sword7 : BitVec 7} {s t : State}
    (h : execTDecSp sword7 s = .next t) : Acts (.tDecSp sword7) s t := .ofNext ((Plain.charge .alu 0 s).trans (.writeReg _ _ _)) h

theorem acts_tPush {r : Bool} {rlist : BitVec 8} {s t : State}
    (h : execTPush r rlist s = .next t) : Acts (.tPush r rlist) s t := .ofPush h

theorem acts_tPop {r : Bool} {rlist : BitVec 8} {s t : State}
    (h : execTPop r rlist s = .next t) : Acts (.tPop r rlist) s t := .ofPop h

theorem acts_tStmia {rb : LowReg} {rlist : BitVec 8} {s t : State}
    (h : execTStmia rb rlist s = .next t) : Acts (.tStmia rb rlist) s t := .ofStmia h

theorem acts_tLdmia {rb : LowReg} {rlist : BitVec 8} {s t : State}
    (h : execTLdmia rb rlist s = .next t) : Acts (.tLdmia rb rlist) s t := .ofLdmia h

theorem acts_tBeq {soffset8 : BitVec 8} {s t : State}
    (h : execTBeq soffset8 s = .next t) : Acts (.tBeq soffset8) s t := .ofNext (.condBranch _ _ s) h

theorem acts_tBne {soffset8 : BitVec 8} {s t : State}
    (h : execTBne soffset8 s = .next t) : Acts (.tBne soffset8) s t := .ofNext (.condBranch _ _ s) h

theorem acts_tBcs {soffset8 : BitVec 8} {s t : State}
    (h : execTBcs soffset8 s = .next t) : Acts (.tBcs soffset8) s t := .ofNext (.condBranch _ _ s) h

theorem acts_tBcc {soffset8 : BitVec 8} {s t : State}
    (h : execTBcc soffset8 s = .next t) : Acts (.tBcc soffset8) s t := .ofNext (.condBranch _ _ s) h

theorem acts_tBmi {soffset8 : BitVec 8} {s t : State}
    (h : execTBmi soffset8 s = .next t) : Acts (.tBmi soffset8) s t := .ofNext (.condBranch _ _ s) h

theorem acts_tBpl {soffset8 : BitVec 8} {s t : State}
    (h : execTBpl soffset8 s = .next t) : Acts (.tBpl soffset8) s t := .ofNext (.condBranch _ _ s) h

theorem acts_tBvs {soffset8 : BitVec 8} {s t : State}
    (h : execTBvs soffset8 s = .next t) : Acts (.tBvs soffset8) s t := .ofNext (.condBranch _ _ s) h

theorem acts_tBvc {soffset8 : BitVec 8} {s t : State}
    (h : execTBvc soffset8 s = .next t) : Acts (.tBvc soffset8) s t := .ofNext (.condBranch _ _ s) h

theorem acts_tBhi {soffset8 : BitVec 8} {s t : State}
    (h : execTBhi soffset8 s = .next t) : Acts (.tBhi soffset8) s t := .ofNext (.condBranch _ _ s) h

theorem acts_tBls {soffset8 : BitVec 8} {s t : State}
    (h : execTBls soffset8 s = .next t) : Acts (.tBls soffset8) s t := .ofNext (.condBranch _ _ s) h

theorem acts_tBge {soffset8 : BitVec 8} {s t : State}
    (h : execTBge soffset8 s = .next t) : Acts (.tBge soffset8) s t := .ofNext (.condBranch _ _ s) h

theorem acts_tBlt {soffset8 : BitVec 8} {s t : State}
    (h : execTBlt soffset8 s = .next t) : Acts (.tBlt soffset8) s t := .ofNext (.condBranch _ _ s) h

theorem acts_tBgt {soffset8 : BitVec 8} {s t : State}
    (h : execTBgt soffset8 s = .next t) : Acts (.tBgt soffset8) s t := .ofNext (.condBranch _ _ s) h

theorem acts_tBle {soffset8 : BitVec 8} {s t : State}
    (h : execTBle soffset8 s = .next t) : Acts (.tBle soffset8) s t := .ofNext (.condBranch _ _ s) h

theorem acts_tUnd {any : BitVec 8} {s t : State}
    (h : execTUnd any s = .next t) : Acts (.tUnd any) s t := .ofUndefined rfl h

theorem acts_tSwi {value8 : BitVec 8} {s t : State}
    (h : execTSwi value8 s = .next t) : Acts (.tSwi value8) s t := .ofSwi rfl h

theorem acts_tB {offset11 : BitVec 11} {s t : State}
    (h : execTB offset11 s = .next t) : Acts (.tB offset11) s t := .ofNext ((Plain.charge .branch 0 s).trans (.writePc _ _)) h

theorem acts_tBlFirst {offset11 : BitVec 11} {s t : State}
    (h : execTBlFirst offset11 s = .next t) : Acts (.tBlFirst offset11) s t := .ofNext ((Plain.charge .blPrefix 0 s).trans (.writeReg _ _ _)) h

theorem acts_tBlSecond {offset11 : BitVec 11} {s t : State}
    (h : execTBlSecond offset11 s = .next t) : Acts (.tBlSecond offset11) s t := .ofNext (((Plain.charge .branch 0 s).trans (.writePc _ _)).trans (.writeReg _ _ _)) h

/-- What an instruction that goes on has done. -/
theorem exec_acts {i : Instr} {s t : State} (h : exec i s = .next t) : Acts i s t := by
  cases i with
  | andImm f => exact acts_andImm h
  | andReg f => exact acts_andReg h
  | andRsr f => exact acts_andRsr h
  | eorImm f => exact acts_eorImm h
  | eorReg f => exact acts_eorReg h
  | eorRsr f => exact acts_eorRsr h
  | subImm f => exact acts_subImm h
  | subReg f => exact acts_subReg h
  | subRsr f => exact acts_subRsr h
  | rsbImm f => exact acts_rsbImm h
  | rsbReg f => exact acts_rsbReg h
  | rsbRsr f => exact acts_rsbRsr h
  | addImm f => exact acts_addImm h
  | addReg f => exact acts_addReg h
  | addRsr f => exact acts_addRsr h
  | adcImm f => exact acts_adcImm h
  | adcReg f => exact acts_adcReg h
  | adcRsr f => exact acts_adcRsr h
  | sbcImm f => exact acts_sbcImm h
  | sbcReg f => exact acts_sbcReg h
  | sbcRsr f => exact acts_sbcRsr h
  | rscImm f => exact acts_rscImm h
  | rscReg f => exact acts_rscReg h
  | rscRsr f => exact acts_rscRsr h
  | tstImm f => exact acts_tstImm h
  | tstReg f => exact acts_tstReg h
  | tstRsr f => exact acts_tstRsr h
  | teqImm f => exact acts_teqImm h
  | teqReg f => exact acts_teqReg h
  | teqRsr f => exact acts_teqRsr h
  | cmpImm f => exact acts_cmpImm h
  | cmpReg f => exact acts_cmpReg h
  | cmpRsr f => exact acts_cmpRsr h
  | cmnImm f => exact acts_cmnImm h
  | cmnReg f => exact acts_cmnReg h
  | cmnRsr f => exact acts_cmnRsr h
  | orrImm f => exact acts_orrImm h
  | orrReg f => exact acts_orrReg h
  | orrRsr f => exact acts_orrRsr h
  | movImm f => exact acts_movImm h
  | movReg f => exact acts_movReg h
  | movRsr f => exact acts_movRsr h
  | bicImm f => exact acts_bicImm h
  | bicReg f => exact acts_bicReg h
  | bicRsr f => exact acts_bicRsr h
  | mvnImm f => exact acts_mvnImm h
  | mvnReg f => exact acts_mvnReg h
  | mvnRsr f => exact acts_mvnRsr h
  | mrs f => exact acts_mrs h
  | msrReg f => exact acts_msrReg h
  | msrImm f => exact acts_msrImm h
  | bx f => exact acts_bx h
  | mul f => exact acts_mul h
  | mla f => exact acts_mla h
  | umull f => exact acts_umull h
  | umlal f => exact acts_umlal h
  | smull f => exact acts_smull h
  | smlal f => exact acts_smlal h
  | swp f => exact acts_swp h
  | swpb f => exact acts_swpb h
  | strhReg f => exact acts_strhReg h
  | strhImm f => exact acts_strhImm h
  | ldrhReg f => exact acts_ldrhReg h
  | ldrhImm f => exact acts_ldrhImm h
  | ldrsbReg f => exact acts_ldrsbReg h
  | ldrsbImm f => exact acts_ldrsbImm h
  | ldrshReg f => exact acts_ldrshReg h
  | ldrshImm f => exact acts_ldrshImm h
  | ldrImmPre f => exact acts_ldrImmPre h
  | ldrImmPost f => exact acts_ldrImmPost h
  | ldrtImm f => exact acts_ldrtImm h
  | strImmPre f => exact acts_strImmPre h
  | strImmPost f => exact acts_strImmPost h
  | strtImm f => exact acts_strtImm h
  | ldrbImmPre f => exact acts_ldrbImmPre h
  | ldrbImmPost f => exact acts_ldrbImmPost h
  | ldrbtImm f => exact acts_ldrbtImm h
  | strbImmPre f => exact acts_strbImmPre h
  | strbImmPost f => exact acts_strbImmPost h
  | strbtImm f => exact acts_strbtImm h
  | ldrRegPre f => exact acts_ldrRegPre h
  | ldrRegPost f => exact acts_ldrRegPost h
  | ldrtReg f => exact acts_ldrtReg h
  | strRegPre f => exact acts_strRegPre h
  | strRegPost f => exact acts_strRegPost h
  | strtReg f => exact acts_strtReg h
  | ldrbRegPre f => exact acts_ldrbRegPre h
  | ldrbRegPost f => exact acts_ldrbRegPost h
  | ldrbtReg f => exact acts_ldrbtReg h
  | strbRegPre f => exact acts_strbRegPre h
  | strbRegPost f => exact acts_strbRegPost h
  | strbtReg f => exact acts_strbtReg h
  | ldm f => exact acts_ldm h
  | ldmUser f => exact acts_ldmUser h
  | ldmReturn f => exact acts_ldmReturn h
  | stm f => exact acts_stm h
  | stmUser f => exact acts_stmUser h
  | b f => exact acts_b h
  | bl f => exact acts_bl h
  | stc f => exact acts_stc h
  | ldc f => exact acts_ldc h
  | cdp f => exact acts_cdp h
  | mcr f => exact acts_mcr h
  | mrc f => exact acts_mrc h
  | swi f => exact acts_swi h
  | und f => exact acts_und h
  | tLslImm offset5 rs rd => exact acts_tLslImm h
  | tLsrImm offset5 rs rd => exact acts_tLsrImm h
  | tAsrImm offset5 rs rd => exact acts_tAsrImm h
  | tAddReg rn rs rd => exact acts_tAddReg h
  | tSubReg rn rs rd => exact acts_tSubReg h
  | tAddImm3 imm3 rs rd => exact acts_tAddImm3 h
  | tSubImm3 imm3 rs rd => exact acts_tSubImm3 h
  | tMovImm8 rd imm8 => exact acts_tMovImm8 h
  | tCmpImm8 rd imm8 => exact acts_tCmpImm8 h
  | tAddImm8 rd imm8 => exact acts_tAddImm8 h
  | tSubImm8 rd imm8 => exact acts_tSubImm8 h
  | tAnd rs rd => exact acts_tAnd h
  | tEor rs rd => exact acts_tEor h
  | tLsl rs rd => exact acts_tLsl h
  | tLsr rs rd => exact acts_tLsr h
  | tAsr rs rd => exact acts_tAsr h
  | tAdc rs rd => exact acts_tAdc h
  | tSbc rs rd => exact acts_tSbc h
  | tRor rs rd => exact acts_tRor h
  | tTst rs rd => exact acts_tTst h
  | tNeg rs rd => exact acts_tNeg h
  | tCmp rs rd => exact acts_tCmp h
  | tCmn rs rd => exact acts_tCmn h
  | tOrr rs rd => exact acts_tOrr h
  | tMul rs rd => exact acts_tMul h
  | tBic rs rd => exact acts_tBic h
  | tMvn rs rd => exact acts_tMvn h
  | tAddHi h1 h2 rs rd => exact acts_tAddHi h
  | tCmpHi h1 h2 rs rd => exact acts_tCmpHi h
  | tMovHi h1 h2 rs rd => exact acts_tMovHi h
  | tBx h2 rs sbz => exact acts_tBx h
  | tLdrPc rd word8 => exact acts_tLdrPc h
  | tStrReg ro rb rd => exact acts_tStrReg h
  | tStrbReg ro rb rd => exact acts_tStrbReg h
  | tLdrReg ro rb rd => exact acts_tLdrReg h
  | tLdrbReg ro rb rd => exact acts_tLdrbReg h
  | tStrhReg ro rb rd => exact acts_tStrhReg h
  | tLdsbReg ro rb rd => exact acts_tLdsbReg h
  | tLdrhReg ro rb rd => exact acts_tLdrhReg h
  | tLdshReg ro rb rd => exact acts_tLdshReg h
  | tStrImm offset5 rb rd => exact acts_tStrImm h
  | tLdrImm offset5 rb rd => exact acts_tLdrImm h
  | tStrbImm offset5 rb rd => exact acts_tStrbImm h
  | tLdrbImm offset5 rb rd => exact acts_tLdrbImm h
  | tStrhImm offset5 rb rd => exact acts_tStrhImm h
  | tLdrhImm offset5 rb rd => exact acts_tLdrhImm h
  | tStrSp rd word8 => exact acts_tStrSp h
  | tLdrSp rd word8 => exact acts_tLdrSp h
  | tAddPc rd word8 => exact acts_tAddPc h
  | tAddSp rd word8 => exact acts_tAddSp h
  | tIncSp sword7 => exact acts_tIncSp h
  | tDecSp sword7 => exact acts_tDecSp h
  | tPush r rlist => exact acts_tPush h
  | tPop r rlist => exact acts_tPop h
  | tStmia rb rlist => exact acts_tStmia h
  | tLdmia rb rlist => exact acts_tLdmia h
  | tBeq soffset8 => exact acts_tBeq h
  | tBne soffset8 => exact acts_tBne h
  | tBcs soffset8 => exact acts_tBcs h
  | tBcc soffset8 => exact acts_tBcc h
  | tBmi soffset8 => exact acts_tBmi h
  | tBpl soffset8 => exact acts_tBpl h
  | tBvs soffset8 => exact acts_tBvs h
  | tBvc soffset8 => exact acts_tBvc h
  | tBhi soffset8 => exact acts_tBhi h
  | tBls soffset8 => exact acts_tBls h
  | tBge soffset8 => exact acts_tBge h
  | tBlt soffset8 => exact acts_tBlt h
  | tBgt soffset8 => exact acts_tBgt h
  | tBle soffset8 => exact acts_tBle h
  | tUnd any => exact acts_tUnd h
  | tSwi value8 => exact acts_tSwi h
  | tB offset11 => exact acts_tB h
  | tBlFirst offset11 => exact acts_tBlFirst h
  | tBlSecond offset11 => exact acts_tBlSecond h

end Sys2Proof.Machine
end

