-- ==== Sys2Proof/Laws/Scheduler.lean ====
section
/-! SUPPORT. The step's frame: what the fetch, the refill, the poll and a tick do to each field, and the three outcomes of
the poll. -/

namespace Sys2Proof.Machine

/-! ## Fetch -/

@[simp] theorem instrWidth_bytes (t : Bool) : (instrWidth t).bytes = if t then 2 else 4 := by cases t <;> rfl

@[simp] theorem fetch_value (s : State) : (fetch s).1 = (memRead s.pc (instrWidth s.cpsr.t) s).1 := rfl
@[simp] theorem fetch_regs (s : State) : (fetch s).2.regs = s.regs := rfl
@[simp] theorem fetch_pc (s : State) : (fetch s).2.pc = s.pc + BitVec.ofNat 32 (instrWidth s.cpsr.t).bytes := rfl
@[simp] theorem fetch_cpsr (s : State) : (fetch s).2.cpsr = s.cpsr := rfl
@[simp] theorem fetch_spsrFiq (s : State) : (fetch s).2.spsrFiq = s.spsrFiq := rfl
@[simp] theorem fetch_spsrIrq (s : State) : (fetch s).2.spsrIrq = s.spsrIrq := rfl
@[simp] theorem fetch_spsrSvc (s : State) : (fetch s).2.spsrSvc = s.spsrSvc := rfl
@[simp] theorem fetch_spsrAbt (s : State) : (fetch s).2.spsrAbt = s.spsrAbt := rfl
@[simp] theorem fetch_spsrUnd (s : State) : (fetch s).2.spsrUnd = s.spsrUnd := rfl
@[simp] theorem fetch_halted (s : State) : (fetch s).2.halted = s.halted := rfl
@[simp] theorem fetch_mem (s : State) : (fetch s).2.mem = (memRead s.pc (instrWidth s.cpsr.t) s).2.mem := rfl
@[simp] theorem fetch_lastAccess (s : State) : (fetch s).2.lastAccess = some { addr := s.pc, width := instrWidth s.cpsr.t } := rfl
@[simp] theorem fetch_plat (s : State) : (fetch s).2.plat = (memRead s.pc (instrWidth s.cpsr.t) s).2.plat := rfl
theorem fetch_stepCost_eq (s : State) : (fetch s).2.stepCost = 0 + accessCycles s (readRequest s.pc (instrWidth s.cpsr.t)) := rfl
@[simp] theorem fetch_budget (s : State) : (fetch s).2.budget = s.budget := rfl
@[simp] theorem fetch_wrotePc (s : State) : (fetch s).2.wrotePc = false := rfl
@[simp] theorem fetch_draws (s : State) : (fetch s).2.draws = s.draws := rfl
@[simp] theorem fetch_phys (p : PhysReg) (s : State) : (fetch s).2.phys p = s.phys p := rfl

/-! ## Refill -/

@[simp] theorem chargeRefill_regs (s : State) : (chargeRefill s).regs = s.regs := by
  unfold chargeRefill; split <;> simp_all
@[simp] theorem chargeRefill_pc (s : State) : (chargeRefill s).pc = s.pc := by
  unfold chargeRefill; split <;> simp_all
@[simp] theorem chargeRefill_cpsr (s : State) : (chargeRefill s).cpsr = s.cpsr := by
  unfold chargeRefill; split <;> simp_all
@[simp] theorem chargeRefill_spsrFiq (s : State) : (chargeRefill s).spsrFiq = s.spsrFiq := by
  unfold chargeRefill; split <;> simp_all
@[simp] theorem chargeRefill_spsrIrq (s : State) : (chargeRefill s).spsrIrq = s.spsrIrq := by
  unfold chargeRefill; split <;> simp_all
@[simp] theorem chargeRefill_spsrSvc (s : State) : (chargeRefill s).spsrSvc = s.spsrSvc := by
  unfold chargeRefill; split <;> simp_all
@[simp] theorem chargeRefill_spsrAbt (s : State) : (chargeRefill s).spsrAbt = s.spsrAbt := by
  unfold chargeRefill; split <;> simp_all
@[simp] theorem chargeRefill_spsrUnd (s : State) : (chargeRefill s).spsrUnd = s.spsrUnd := by
  unfold chargeRefill; split <;> simp_all
@[simp] theorem chargeRefill_halted (s : State) : (chargeRefill s).halted = s.halted := by
  unfold chargeRefill; split <;> simp_all
@[simp] theorem chargeRefill_mem (s : State) : (chargeRefill s).mem = s.mem := by
  unfold chargeRefill; split <;> simp_all
@[simp] theorem chargeRefill_lastAccess (s : State) : (chargeRefill s).lastAccess = s.lastAccess := by
  unfold chargeRefill; split <;> simp_all
@[simp] theorem chargeRefill_plat (s : State) : (chargeRefill s).plat = s.plat := by
  unfold chargeRefill; split <;> simp_all
@[simp] theorem chargeRefill_stepCost (s : State) : (chargeRefill s).stepCost = s.stepCost + if s.wrotePc then Config.refillCost s.pc s.cpsr.t else 0 := by
  unfold chargeRefill; split <;> simp_all
@[simp] theorem chargeRefill_budget (s : State) : (chargeRefill s).budget = s.budget := by
  unfold chargeRefill; split <;> simp_all
@[simp] theorem chargeRefill_wrotePc (s : State) : (chargeRefill s).wrotePc = false := by
  unfold chargeRefill; split <;> simp_all
@[simp] theorem chargeRefill_draws (s : State) : (chargeRefill s).draws = s.draws := by
  unfold chargeRefill; split <;> simp_all

/-! ## Tick -/

@[simp] theorem tick_regs (n : Nat) (s : State) : (s.tick n).regs = s.regs := rfl
@[simp] theorem tick_pc (n : Nat) (s : State) : (s.tick n).pc = s.pc := rfl
@[simp] theorem tick_cpsr (n : Nat) (s : State) : (s.tick n).cpsr = s.cpsr := rfl
@[simp] theorem tick_spsrFiq (n : Nat) (s : State) : (s.tick n).spsrFiq = s.spsrFiq := rfl
@[simp] theorem tick_spsrIrq (n : Nat) (s : State) : (s.tick n).spsrIrq = s.spsrIrq := rfl
@[simp] theorem tick_spsrSvc (n : Nat) (s : State) : (s.tick n).spsrSvc = s.spsrSvc := rfl
@[simp] theorem tick_spsrAbt (n : Nat) (s : State) : (s.tick n).spsrAbt = s.spsrAbt := rfl
@[simp] theorem tick_spsrUnd (n : Nat) (s : State) : (s.tick n).spsrUnd = s.spsrUnd := rfl
@[simp] theorem tick_halted (n : Nat) (s : State) : (s.tick n).halted = s.halted := rfl
@[simp] theorem tick_lastAccess (n : Nat) (s : State) : (s.tick n).lastAccess = s.lastAccess := rfl
@[simp] theorem tick_stepCost (n : Nat) (s : State) : (s.tick n).stepCost = s.stepCost := rfl
@[simp] theorem tick_budget (n : Nat) (s : State) : (s.tick n).budget = s.budget := rfl
@[simp] theorem tick_wrotePc (n : Nat) (s : State) : (s.tick n).wrotePc = s.wrotePc := rfl
@[simp] theorem tick_draws (n : Nat) (s : State) : (s.tick n).draws = s.draws := rfl
@[simp] theorem tick_phys (n : Nat) (p : PhysReg) (s : State) : (s.tick n).phys p = s.phys p := rfl
@[simp] theorem tick_writeMasks (n : Nat) (s : State) : (s.tick n).plat.writeMasks = s.plat.writeMasks := rfl
@[simp] theorem tick_haltWrites (n : Nat) (s : State) : (s.tick n).plat.haltWrites = s.plat.haltWrites := rfl

/-- Every peripheral receives every amount (R452, R461). -/
theorem tickAll_elapsed (n : Nat) (ps : List Peripheral) : ∀ m : Memory,
    (tickAll n ps m).1.map Peripheral.elapsed = ps.map fun p => p.elapsed + n := by
  induction ps with
  | nil => exact fun _ => rfl
  | cons p rest ih =>
    intro m
    simp only [tickAll, List.map_cons, ih, Peripheral.tick, run_elapsed]

theorem tick_elapsed (n : Nat) (s : State) :
    (s.tick n).plat.periphs.map Peripheral.elapsed = s.plat.periphs.map fun p => p.elapsed + n :=
  tickAll_elapsed n _ _

/-! ## The poll -/

/-- What the poll does: nothing, a wake only, or a wake and the interrupt's entry (R508). -/
theorem boundaryCheck_cases (s : State) :
    s.interruptPending = false ∧ boundaryCheck s = s ∨
    s.interruptPending = true ∧ s.cpsr.i = true ∧ boundaryCheck s = { s with halted := false } ∨
    s.interruptPending = true ∧ s.cpsr.i = false ∧
      boundaryCheck s = enterException .irq s.pc { s with halted := false } := by
  unfold boundaryCheck wake Config.haltWakeRequiresIClear
  cases hp : s.interruptPending
  · exact .inl ⟨rfl, rfl⟩
  · cases hi : s.cpsr.i
    · exact .inr (.inr ⟨rfl, rfl, by simp [hi]⟩)
    · exact .inr (.inl ⟨rfl, rfl, by simp [hi]⟩)

@[simp] theorem boundaryCheck_mem (s : State) : (boundaryCheck s).mem = s.mem := by
  rcases boundaryCheck_cases s with ⟨_, h⟩ | ⟨_, _, h⟩ | ⟨_, _, h⟩ <;> simp [h]
@[simp] theorem boundaryCheck_lastAccess (s : State) : (boundaryCheck s).lastAccess = s.lastAccess := by
  rcases boundaryCheck_cases s with ⟨_, h⟩ | ⟨_, _, h⟩ | ⟨_, _, h⟩ <;> simp [h]
@[simp] theorem boundaryCheck_plat (s : State) : (boundaryCheck s).plat = s.plat := by
  rcases boundaryCheck_cases s with ⟨_, h⟩ | ⟨_, _, h⟩ | ⟨_, _, h⟩ <;> simp [h]
@[simp] theorem boundaryCheck_budget (s : State) : (boundaryCheck s).budget = s.budget := by
  rcases boundaryCheck_cases s with ⟨_, h⟩ | ⟨_, _, h⟩ | ⟨_, _, h⟩ <;> simp [h]
@[simp] theorem boundaryCheck_wrotePc (s : State) : (boundaryCheck s).wrotePc = s.wrotePc := by
  rcases boundaryCheck_cases s with ⟨_, h⟩ | ⟨_, _, h⟩ | ⟨_, _, h⟩ <;> simp [h]
@[simp] theorem boundaryCheck_draws (s : State) : (boundaryCheck s).draws = s.draws := by
  rcases boundaryCheck_cases s with ⟨_, h⟩ | ⟨_, _, h⟩ | ⟨_, _, h⟩ <;> simp [h]

theorem vectorOf_aligned (cls : ExcClass) : alignPc false (vectorOf cls) = vectorOf cls := by cases cls <;> rfl

/-- The poll keeps pc aligned for the state (R28, R505). -/
theorem boundaryCheck_aligned (s : State) (h : alignPc s.cpsr.t s.pc = s.pc) :
    alignPc (boundaryCheck s).cpsr.t (boundaryCheck s).pc = (boundaryCheck s).pc := by
  rcases boundaryCheck_cases s with ⟨_, e⟩ | ⟨_, _, e⟩ | ⟨_, _, e⟩ <;> rw [e]
  · exact h
  · exact h
  · simpa [Cpsr.enter] using vectorOf_aligned .irq

/-- The fetch leaves memory canonical. -/
theorem fetch_wf (s : State) (h : s.mem.wf = true) : (fetch s).2.mem.wf = true := memRead_wf _ _ s h

/-- The fetch leaves pc aligned (R28). -/
theorem fetch_aligned (s : State) (h : alignPc s.cpsr.t s.pc = s.pc) :
    alignPc (fetch s).2.cpsr.t (fetch s).2.pc = (fetch s).2.pc := by
  simpa using alignPc_advance s.cpsr.t s.pc h

/-! ## Putting a step together -/

theorem andThen_next {r : Result} {k : State → State} {t : State} (h : andThen r k = .next t) :
    ∃ u, r = .next u ∧ t = k u := by
  cases r with
  | next u => exact ⟨u, rfl, (Host.Outcome.next.inj h).symm⟩
  | fault e => exact nomatch h
  | refused e => exact nomatch h

@[simp] theorem andThen_next_eq (u : State) (k : State → State) : andThen (.next u) k = .next (k u) := rfl

end Sys2Proof.Machine
end

