-- ==== Sys2Proof/Laws/Status.lean ====
section
/-! SUPPORT. The status registers as words, and what BX, an exception return and MSR can do. -/

namespace Sys2Proof.Machine

/-! ## Words and fields (R30, R35) -/

theorem Spsr.getLsbD_toWord (p : Spsr) (k : Nat) : p.toWord.getLsbD k =
    (if k < 5 then p.m.getLsbD k else if k = 5 then p.t else if k = 6 then p.f else if k = 7 then p.i
    else if k = 28 then p.v else if k = 29 then p.c else if k = 30 then p.z else if k = 31 then p.n else false) := by
  by_cases h : k < 32
  · simp only [Spsr.toWord, BitVec.getLsbD_append, BitVec.getLsbD_ofBool, BitVec.getLsbD_zero]
    rcases Nat.lt_or_ge k 8 with h8 | h8
    · interval_cases k <;> simp
    · have e5 : ¬k < 5 := by omega
      rcases Nat.lt_or_ge k 28 with h28 | h28
      · simp [e5, show ¬k - 5 < 1 by omega, show ¬k - 5 - 1 < 1 by omega, show ¬k - 5 - 1 - 1 < 1 by omega,
          show k - 5 - 1 - 1 - 1 < 20 by omega, show k ≠ 5 by omega, show k ≠ 6 by omega, show k ≠ 7 by omega,
          show k ≠ 28 by omega, show k ≠ 29 by omega, show k ≠ 30 by omega, show k ≠ 31 by omega]
      · interval_cases k <;> simp
  · rw [BitVec.getLsbD_of_ge _ _ (by omega)]
    simp [show ¬k < 5 by omega, show k ≠ 5 by omega, show k ≠ 6 by omega, show k ≠ 7 by omega,
      show k ≠ 28 by omega, show k ≠ 29 by omega, show k ≠ 30 by omega, show k ≠ 31 by omega]

/-- A saved status register written with its own word is unchanged (R30). -/
theorem spsrOfWord_toWord (p : Spsr) : spsrOfWord p.toWord = p := by
  have hm : p.toWord.extractLsb' 0 5 = p.m := by
    refine BitVec.eq_of_getLsbD_eq fun k hk => ?_
    rw [BitVec.getLsbD_extractLsb', Nat.zero_add, Spsr.getLsbD_toWord]
    simp [hk]
  cases p
  simp only [spsrOfWord, Spsr.getLsbD_toWord, hm]
  rfl

theorem modeOfBits_bits (m : Mode) : modeOfBits m.bits = some m := by cases m <;> rfl

theorem bits_of_modeOfBits {b : BitVec 5} {m : Mode} (h : modeOfBits b = some m) : m.bits = b := by
  unfold modeOfBits at h
  split at h <;> first | (cases h; rfl) | exact absurd h (by simp)

/-- What entry saves, a return restores (R36, R517). -/
theorem restore_save (p : Cpsr) : p.save.restore = some p := by
  simp [Spsr.restore, Cpsr.save, modeOfBits_bits]

/-- The CPSR a legal saved status register restores has its fields. -/
theorem restore_some {q : Spsr} {p : Cpsr} (h : q.restore = some p) :
    p.save = q ∧ modeOfBits q.m = some p.mode := by
  unfold Spsr.restore at h
  rw [Option.map_eq_some_iff] at h
  obtain ⟨m, hm, rfl⟩ := h
  exact ⟨by cases q; simp [Cpsr.save, bits_of_modeOfBits hm], hm⟩

/-! ## Branch exchange, exception return -/

theorem branchExchange_aligned (v : Word) (s : State) :
    alignPc (branchExchange v s).cpsr.t (branchExchange v s).pc = (branchExchange v s).pc := by
  simp [branchExchange, alignPc_idem]

/-- An exception return that goes on (R517, U3). -/
theorem exceptionReturn_next {v : Word} {s t : State} (h : exceptionReturn v s = .next t) :
    excModeOf s.cpsr.mode = none ∧ t = writePc v s ∨
    ∃ b p, excModeOf s.cpsr.mode = some b ∧ (s.spsr b).restore = some p ∧ t = writePc v (s.setCpsr p) := by
  unfold exceptionReturn at h
  split at h
  · next hm => exact .inl ⟨hm, (Host.Outcome.next.inj h).symm⟩
  · next b hb =>
    split at h
    · exact nomatch h
    · next p hp => exact .inr ⟨b, p, hb, hp, (Host.Outcome.next.inj h).symm⟩

/-! ## MSR (R306) -/

theorem getLsbD_byteMask (m : BitVec 4) (k : Nat) : (byteMask m).getLsbD k = (decide (k < 32) && m.getLsbD (k / 8)) := by
  by_cases h : k < 32
  · have h0 : k / 8 < 4 := by omega
    simp only [byteMask, BitVec.getLsbD_or, h, decide_true, Bool.true_and]
    have : ∀ b : Bool, ∀ c : Word, (if b then c else 0#32).getLsbD k = (b && c.getLsbD k) := by
      intro b c; cases b <;> simp
    simp only [this]
    interval_cases k <;> simp
  · rw [BitVec.getLsbD_of_ge _ _ (by omega)]
    simp [h]

/-- A bit of the merged word is the operand's where the mask is 1, else the old one. -/
theorem getLsbD_mergeBits (old operand mask : Word) (k : Nat) :
    (mergeBits old operand mask).getLsbD k = if mask.getLsbD k then operand.getLsbD k else old.getLsbD k := by
  by_cases h : k < 32
  · simp only [mergeBits, BitVec.getLsbD_or, BitVec.getLsbD_and, BitVec.getLsbD_not, h, decide_true]
    cases mask.getLsbD k <;> simp
  · simp [BitVec.getLsbD_of_ge _ k (Nat.le_of_not_lt h)]

/-- MSR to the CPSR that goes on: the merged word is the CPSR's (R306). -/
theorem msrCpsr_next {m : BitVec 4} {v : Word} {s t : State} (h : msrCpsr m v s = .next t) :
    ∃ p, (spsrOfWord (mergeBits s.cpsr.toWord v (byteMask m &&& cpsrWritable s.cpsr.mode))).restore = some p ∧
      t = s.setCpsr p := by
  unfold msrCpsr at h
  split at h
  · next p hp => exact ⟨p, hp, (Host.Outcome.next.inj h).symm⟩
  · exact nomatch h

/-- MSR never writes T (R34, R306, U2). -/
theorem msrCpsr_thumb {m : BitVec 4} {v : Word} {s t : State} (h : msrCpsr m v s = .next t) : t.cpsr.t = s.cpsr.t := by
  obtain ⟨p, hp, rfl⟩ := msrCpsr_next h
  have ht : p.t = (spsrOfWord (mergeBits s.cpsr.toWord v (byteMask m &&& cpsrWritable s.cpsr.mode))).t := by
    rw [← (restore_some hp).1]
    rfl
  have hmask : (byteMask m &&& cpsrWritable s.cpsr.mode).getLsbD 5 = false := by
    unfold cpsrWritable
    split <;> simp
  show p.t = _
  rw [ht]
  simp only [spsrOfWord, getLsbD_mergeBits, hmask, Cpsr.toWord, Spsr.getLsbD_toWord]
  rfl

/-- In User mode MSR writes the flags only (R37, R306). -/
theorem msrCpsr_user {m : BitVec 4} {v : Word} {s t : State} (hu : s.cpsr.mode = .usr) (h : msrCpsr m v s = .next t) :
    t.cpsr.i = s.cpsr.i ∧ t.cpsr.f = s.cpsr.f ∧ t.cpsr.mode = .usr := by
  obtain ⟨p, hp, rfl⟩ := msrCpsr_next h
  have hs := (restore_some hp).1
  have hmask : ∀ k, k < 28 → (byteMask m &&& cpsrWritable s.cpsr.mode).getLsbD k = false := by
    intro k hk
    rw [BitVec.getLsbD_and, cpsrWritable, if_pos hu]
    have : (0xF0000000#32).getLsbD k = false := by interval_cases k <;> rfl
    rw [this, Bool.and_false]
  have hbit : ∀ k, k < 28 →
      (mergeBits s.cpsr.toWord v (byteMask m &&& cpsrWritable s.cpsr.mode)).getLsbD k = s.cpsr.toWord.getLsbD k := by
    intro k hk
    simp [getLsbD_mergeBits, hmask k hk]
  have hlow : (mergeBits s.cpsr.toWord v (byteMask m &&& cpsrWritable s.cpsr.mode)).extractLsb' 0 5 = s.cpsr.mode.bits := by
    refine BitVec.eq_of_getLsbD_eq fun k hk => ?_
    rw [BitVec.getLsbD_extractLsb', Nat.zero_add, hbit k (by omega), Cpsr.toWord, Spsr.getLsbD_toWord]
    simp [hk, Cpsr.save]
  have hi : p.i = s.cpsr.i := by
    refine (congrArg Spsr.i hs).trans ((hbit 7 (by decide)).trans ?_)
    rw [Cpsr.toWord, Spsr.getLsbD_toWord]
    rfl
  have hf : p.f = s.cpsr.f := by
    refine (congrArg Spsr.f hs).trans ((hbit 6 (by decide)).trans ?_)
    rw [Cpsr.toWord, Spsr.getLsbD_toWord]
    rfl
  have hmode := (restore_some hp).2
  rw [show (spsrOfWord (mergeBits s.cpsr.toWord v (byteMask m &&& cpsrWritable s.cpsr.mode))).m = s.cpsr.mode.bits from hlow,
    modeOfBits_bits] at hmode
  exact ⟨hi, hf, (Option.some.inj hmode).symm.trans hu⟩

theorem msrSpsr_cpsr (m : BitVec 4) (v : Word) (s : State) : (msrSpsr m v s).cpsr = s.cpsr := by
  unfold msrSpsr
  split <;> simp

theorem msr_pc {r : Bool} {m : BitVec 4} {v : Word} {s t : State} (h : msr r m v s = .next t) :
    t.pc = s.pc ∧ t.mem = s.mem ∧ t.regs = s.regs ∧ t.cpsr.t = s.cpsr.t := by
  unfold msr at h
  split at h
  · obtain rfl := Host.Outcome.next.inj h
    unfold msrSpsr
    split <;> simp
  · obtain ⟨p, hp, rfl⟩ := msrCpsr_next h
    exact ⟨rfl, rfl, rfl, msrCpsr_thumb h⟩

end Sys2Proof.Machine
end

