-- ==== Sys2Proof/Laws/Cost.lean ====
section
/-! SUPPORT. Where the cycles of a step go: an instruction leaves the budget and the peripherals' clocks alone and only adds to
the step's cost (R157, R452); what is accounted for is what is ticked. -/

namespace Sys2Proof.Machine

theorem accessCycles_pos (s : State) (r : Request) : 1 ≤ accessCycles s r := Nat.le_add_right 1 _

/-- An instruction that goes on leaves the budget and the clocks alone, and its cost is not negative. -/
theorem exec_cost {i : Instr} {s t : State} (e : exec i s = .next t) : t.budget = s.budget ∧ s.stepCost ≤ t.stepCost ∧
    t.plat.periphs.map Peripheral.elapsed = s.plat.periphs.map Peripheral.elapsed := by
  rcases exec_acts e with h | ⟨_, cls, _, u, h, _, _, _, _, rfl⟩ | ⟨_, v, u, h, rfl⟩ | ⟨_, v, u, h, ht⟩ |
    ⟨_, sp, m, v, u, h, ht⟩
  · exact ⟨h.budget, h.cost, h.elapsed⟩
  · have := h.cost
    exact ⟨by simp [h.budget], by simp; omega, by simpa using h.elapsed⟩
  · exact ⟨h.budget, h.cost, h.elapsed⟩
  · rcases exceptionReturn_next ht with ⟨_, rfl⟩ | ⟨b, p, _, _, rfl⟩ <;> exact ⟨h.budget, h.cost, h.elapsed⟩
  · unfold msr at ht
    split at ht
    · obtain rfl := Host.Outcome.next.inj ht
      unfold msrSpsr
      split <;> exact ⟨by simp [h.budget], by simp [h.cost], by simpa using h.elapsed⟩
    · obtain ⟨p, _, rfl⟩ := msrCpsr_next ht
      exact ⟨h.budget, h.cost, h.elapsed⟩

theorem takeUndefined_cost {s t : State} (e : takeUndefined s = .next t) : t.budget = s.budget ∧ s.stepCost ≤ t.stepCost ∧
    t.plat.periphs.map Peripheral.elapsed = s.plat.periphs.map Peripheral.elapsed := by
  obtain rfl := Host.Outcome.next.inj e
  exact ⟨rfl, by simp; omega, rfl⟩

/-- The fetch and what it runs: the budget and the clocks stay, the cost is at least 1 (R64, R151). -/
theorem executeFetched_cost {s t : State} (h : executeFetched (fetch s) = .next t) :
    t.budget = s.budget ∧ 1 ≤ t.stepCost ∧
    t.plat.periphs.map Peripheral.elapsed = s.plat.periphs.map Peripheral.elapsed := by
  have hc : 1 ≤ (fetch s).2.stepCost := by
    rw [fetch_stepCost_eq]
    have := accessCycles_pos s (readRequest s.pc (instrWidth s.cpsr.t))
    omega
  have hf : (fetch s).2.plat.periphs.map Peripheral.elapsed = s.plat.periphs.map Peripheral.elapsed :=
    (Plain.memRead s.pc (instrWidth s.cpsr.t) { s with stepCost := 0, wrotePc := false }).elapsed
  have key : t.budget = (fetch s).2.budget ∧ (fetch s).2.stepCost ≤ t.stepCost ∧
      t.plat.periphs.map Peripheral.elapsed = (fetch s).2.plat.periphs.map Peripheral.elapsed := by
    unfold executeFetched at h
    split at h
    · exact exec_cost h
    · unfold takeNoRow at h
      split at h
      · exact takeUndefined_cost h
      · rcases guarded_next h with rfl | ⟨_, h⟩
        · exact ⟨rfl, le_rfl, rfl⟩
        · exact takeUndefined_cost h
  exact ⟨key.1, by omega, key.2.2.trans hf⟩

theorem boundaryCheck_cost (s : State) : s.stepCost ≤ (boundaryCheck s).stepCost := by
  rcases boundaryCheck_cases s with ⟨_, h⟩ | ⟨_, _, h⟩ | ⟨_, _, h⟩ <;> rw [h]
  simp
  omega

end Sys2Proof.Machine
end

