-- ==== Sys2Proof/Laws/Budget.lean ====
section
/-! SUPPORT. Nothing in an instruction looks at the budget: every operation commutes with giving the state another one, and so
does the step of an awake core (R40, R459). -/

namespace Sys2Proof.Machine

/-- The state with another budget. -/
def State.withBudget (s : State) (b : Int) : State := { s with budget := b }

@[simp] theorem withBudget_cpsr (s : State) (b : Int) : (s.withBudget b).cpsr = s.cpsr := rfl

@[simp] theorem withBudget_pc (s : State) (b : Int) : (s.withBudget b).pc = s.pc := rfl

@[simp] theorem withBudget_draws (s : State) (b : Int) : (s.withBudget b).draws = s.draws := rfl

@[simp] theorem withBudget_phys (s : State) (b : Int) (p : PhysReg) : (s.withBudget b).phys p = s.phys p := rfl

@[simp] theorem withBudget_spsr (s : State) (b : Int) (m : ExcMode) :
    (s.withBudget b).spsr m = s.spsr m := by cases m <;> rfl

@[simp] theorem readArm_withBudget (i : Reg) (s : State) (b : Int) : readArm i (s.withBudget b) = readArm i s := rfl

@[simp] theorem readArm12_withBudget (i : Reg) (s : State) (b : Int) : readArm12 i (s.withBudget b) = readArm12 i s := rfl

@[simp] theorem readThumb_withBudget (i : Reg) (s : State) (b : Int) : readThumb i (s.withBudget b) = readThumb i s := rfl

@[simp] theorem readUser_withBudget (i : Reg) (s : State) (b : Int) : readUser i (s.withBudget b) = readUser i s := rfl

@[simp] theorem setPhys_withBudget (p : PhysReg) (v : Word) (s : State) (b : Int) :
    (s.withBudget b).setPhys p v = (s.setPhys p v).withBudget b := rfl

@[simp] theorem setCpsr_withBudget (p : Cpsr) (s : State) (b : Int) :
    (s.withBudget b).setCpsr p = (s.setCpsr p).withBudget b := rfl

@[simp] theorem setSpsr_withBudget (m : ExcMode) (p : Spsr) (s : State) (b : Int) :
    (s.withBudget b).setSpsr m p = (s.setSpsr m p).withBudget b := by cases m <;> rfl

@[simp] theorem writePc_withBudget (v : Word) (s : State) (b : Int) :
    writePc v (s.withBudget b) = (writePc v s).withBudget b := rfl

@[simp] theorem writeReg_withBudget (i : Reg) (v : Word) (s : State) (b : Int) :
    writeReg i v (s.withBudget b) = (writeReg i v s).withBudget b := by unfold writeReg; split <;> rfl

@[simp] theorem writeUser_withBudget (i : Reg) (v : Word) (s : State) (b : Int) :
    writeUser i v (s.withBudget b) = (writeUser i v s).withBudget b := rfl

@[simp] theorem charge_withBudget (c : CostCategory) (mc : Nat) (s : State) (b : Int) :
    (s.withBudget b).charge c mc = (s.charge c mc).withBudget b := rfl

@[simp] theorem setFlags_withBudget (o : AluOut) (s : State) (b : Int) :
    setFlags o (s.withBudget b) = (setFlags o s).withBudget b := rfl

@[simp] theorem memRead_withBudget (a : Word) (w : Width) (s : State) (b : Int) :
    memRead a w (s.withBudget b) = ((memRead a w s).1, (memRead a w s).2.withBudget b) := rfl

@[simp] theorem memWrite_withBudget (a : Word) (w : Width) (v : Word) (s : State) (b : Int) :
    memWrite a w v (s.withBudget b) = (memWrite a w v s).withBudget b := by
  show State.examineHalt _ _ = (State.examineHalt _ _).withBudget b
  unfold State.examineHalt
  split
  · next h => rw [if_pos]; rfl; exact h
  · next h => rw [if_neg]; rfl; exact h

@[simp] theorem loadAt_withBudget (k : LoadKind) (ea : Word) (s : State) (b : Int) :
    loadAt k ea (s.withBudget b) = ((loadAt k ea s).1, (loadAt k ea s).2.withBudget b) := by
  cases k <;> try rfl
  show loadSignedHalf ea _ = ((loadSignedHalf ea _).1, _)
  unfold loadAt loadSignedHalf; split <;> rfl

@[simp] theorem storeAt_withBudget (w : Width) (ea v : Word) (s : State) (b : Int) :
    storeAt w ea v (s.withBudget b) = (storeAt w ea v s).withBudget b := memWrite_withBudget _ _ _ _ _

@[simp] theorem writeBack_withBudget (m : Addressing) (rn : Reg) (s : State) (b : Int) :
    m.writeBack rn (s.withBudget b) = (m.writeBack rn s).withBudget b := by unfold Addressing.writeBack; split <;> simp

@[simp] theorem blockWriteBack_withBudget (w : Bool) (rn : Reg) (wb : Word) (s : State) (b : Int) :
    blockWriteBack w rn wb (s.withBudget b) = (blockWriteBack w rn wb s).withBudget b := by
  unfold blockWriteBack; split <;> simp

@[simp] theorem singleLoad_withBudget (k : LoadKind) (m : Addressing) (rn rd : Reg) (s : State) (b : Int) :
    singleLoad k m rn rd (s.withBudget b) = (singleLoad k m rn rd s).withBudget b := by simp [singleLoad]

@[simp] theorem singleStore_withBudget (w : Width) (m : Addressing) (rn : Reg) (v : Word) (s : State) (b : Int) :
    singleStore w m rn v (s.withBudget b) = (singleStore w m rn v s).withBudget b := by simp [singleStore]

@[simp] theorem swap_withBudget (k : LoadKind) (w : Width) (ea v : Word) (rd : Reg) (s : State) (b : Int) :
    swap k w ea v rd (s.withBudget b) = (swap k w ea v rd s).withBudget b := by simp [swap]

@[simp] theorem loadSlots_withBudget (slots : List Reg) :
    ∀ (a : Word) (s : State) (b : Int), loadSlots slots a (s.withBudget b) =
      ((loadSlots slots a s).1, (loadSlots slots a s).2.withBudget b) := by
  induction slots with
  | nil => exact fun _ _ _ => rfl
  | cons r rest ih => intro a s b; simp [loadSlots, ih]

theorem storeSlots_withBudget {value : Reg → State → Word} (hv : ∀ r s b, value r (State.withBudget s b) = value r s)
    (slots : List Reg) : ∀ (a : Word) (s : State) (b : Int),
    storeSlots value slots a (s.withBudget b) = (storeSlots value slots a s).withBudget b := by
  induction slots with
  | nil => exact fun _ _ _ => rfl
  | cons r rest ih => intro a s b; simp [storeSlots, ih, hv]

theorem writeSlots_withBudget {put : Reg → Word → State → State}
    (hv : ∀ r v s b, put r v (State.withBudget s b) = (put r v s).withBudget b) (l : List (Reg × Word)) :
    ∀ (s : State) (b : Int), writeSlots put l (s.withBudget b) = (writeSlots put l s).withBudget b := by
  induction l with
  | nil => exact fun _ _ => rfl
  | cons r rest ih => intro s b; simp [writeSlots, ih, hv]

@[simp] theorem enterException_withBudget (cls : ExcClass) (ret : Word) (s : State) (b : Int) :
    enterException cls ret (s.withBudget b) = (enterException cls ret s).withBudget b := by cases cls <;> rfl

@[simp] theorem branchExchange_withBudget (v : Word) (s : State) (b : Int) :
    branchExchange v (s.withBudget b) = (branchExchange v s).withBudget b := rfl

/-- The result with another budget. -/
def withBudgetOf (b : Int) (r : Result) : Result := andThen r (·.withBudget b)

@[simp] theorem withBudgetOf_next (b : Int) (s : State) : withBudgetOf b (.next s) = .next (s.withBudget b) := rfl

@[simp] theorem withBudgetOf_fault (b : Int) (s : Fault) : withBudgetOf b (.fault s) = .fault s := rfl

@[simp] theorem withBudgetOf_refused (b : Int) (s : Refusal) : withBudgetOf b (.refused s) = .refused s := rfl

@[simp] theorem withBudgetOf_ite (b : Int) (c : Prop) [Decidable c] (x y : Result) :
    withBudgetOf b (if c then x else y) = if c then withBudgetOf b x else withBudgetOf b y := by split <;> rfl

@[simp] theorem exceptionReturn_withBudget (v : Word) (s : State) (b : Int) :
    exceptionReturn v (s.withBudget b) = withBudgetOf b (exceptionReturn v s) := by
  unfold exceptionReturn
  simp only [withBudget_cpsr, withBudget_spsr]
  split
  · rfl
  · split <;> rfl

@[simp] theorem msr_withBudget (r : Bool) (m : BitVec 4) (v : Word) (s : State) (b : Int) :
    msr r m v (s.withBudget b) = withBudgetOf b (msr r m v s) := by
  unfold msr
  split
  · unfold msrSpsr; simp only [withBudget_cpsr, withBudget_spsr]; split <;> simp
  · unfold msrCpsr; simp only [withBudget_cpsr]; split <;> simp

@[simp] theorem dpWrite_withBudget (sBit : Bool) (rd : Reg) (o : AluOut) (s : State) (b : Int) :
    dpWrite sBit rd o (s.withBudget b) = withBudgetOf b (dpWrite sBit rd o s) := by
  unfold dpWrite; split <;> split <;> simp

theorem guarded_withBudget {c : Cond} {body : State → Result}
    (h : ∀ s b, body (State.withBudget s b) = withBudgetOf b (body s)) (s : State) (b : Int) :
    guarded c body (s.withBudget b) = withBudgetOf b (guarded c body s) := by
  unfold guarded; simp only [withBudget_cpsr, withBudgetOf_ite, h, withBudgetOf_next]

@[simp] theorem thumbWrite_withBudget (rd : LowReg) (o : AluOut) (s : State) (b : Int) :
    thumbWrite rd o (s.withBudget b) = (thumbWrite rd o s).withBudget b := by simp [thumbWrite]

@[simp] theorem condBranch_withBudget (c : Cond) (o : BitVec 8) (s : State) (b : Int) :
    condBranch c o (s.withBudget b) = (condBranch c o s).withBudget b := by
  unfold condBranch; split
  · next h => rw [if_pos (by exact h)]; rfl
  · next h => rw [if_neg (by exact h)]

@[simp] theorem mulWrite_withBudget (sb : Bool) (rd : Reg) (r : Word) (s : State) (b : Int) :
    mulWrite sb rd r (s.withBudget b) = (mulWrite sb rd r s).withBudget b := by
  unfold mulWrite
  rw [writeReg_withBudget]
  split <;> rfl

@[simp] theorem mullWrite_withBudget (sb : Bool) (lo hi : Reg) (r : BitVec 64) (s : State) (b : Int) :
    mullWrite sb lo hi r (s.withBudget b) = (mullWrite sb lo hi r s).withBudget b := by
  unfold mullWrite
  dsimp only
  rw [writeReg_withBudget, writeReg_withBudget]
  split <;> rfl

@[simp] theorem thumbLoad_withBudget (k : LoadKind) (ea : Word) (rd : LowReg) (s : State) (b : Int) :
    thumbLoad k ea rd (s.withBudget b) = (thumbLoad k ea rd s).withBudget b := by simp [thumbLoad]

@[simp] theorem thumbStore_withBudget (w : Width) (ea : Word) (rd : LowReg) (s : State) (b : Int) :
    thumbStore w ea rd (s.withBudget b) = (thumbStore w ea rd s).withBudget b := by simp [thumbStore, low]

theorem stm_withBudget (f : BdtFields) (s : State) (b : Int) : stmBody f (s.withBudget b) = withBudgetOf b (stmBody f s) := by
  unfold stmBody
  dsimp only
  split
  · rfl
  · unfold storeBlock
    split
    · rfl
    · have h : ∀ r s b, stmValue (readArm12 15#4 s) r (State.withBudget s b) = stmValue (readArm12 15#4 s) r s :=
        fun _ _ _ => rfl
      simp only [readArm_withBudget, readArm12_withBudget, memWrite_withBudget, blockWriteBack_withBudget, withBudgetOf_next]
      rw [show ∀ r, stmValue (readArm12 15#4 s) r (s.withBudget b) = stmValue (readArm12 15#4 s) r s from fun _ => rfl]
      rw [storeSlots_withBudget (fun _ _ _ => rfl)]
      rfl

theorem stmUser_withBudget (f : BdtFields) (s : State) (b : Int) :
    stmUserBody f (s.withBudget b) = withBudgetOf b (stmUserBody f s) := by
  unfold stmUserBody
  dsimp only
  split
  · rfl
  · split
    · rfl
    · simp only [readArm_withBudget, readArm12_withBudget, withBudgetOf_next]
      rw [storeSlots_withBudget (fun _ _ _ => rfl)]
      rfl

theorem ldm_withBudget (f : BdtFields) (s : State) (b : Int) : ldmBody f (s.withBudget b) = withBudgetOf b (ldmBody f s) := by
  unfold ldmBody
  dsimp only
  split
  · rfl
  · simp only [readArm_withBudget, loadSlots_withBudget, blockWriteBack_withBudget, withBudgetOf_next]
    rw [writeSlots_withBudget writeReg_withBudget]
    rfl

theorem ldmUser_withBudget (f : BdtLowFields) (s : State) (b : Int) :
    ldmUserBody f (s.withBudget b) = withBudgetOf b (ldmUserBody f s) := by
  unfold ldmUserBody
  dsimp only
  split
  · rfl
  · split
    · rfl
    · simp only [readArm_withBudget, loadSlots_withBudget, withBudgetOf_next]
      rw [writeSlots_withBudget writeUser_withBudget]
      rfl

theorem ldmReturn_withBudget (f : BdtLowFields) (s : State) (b : Int) :
    ldmReturnBody f (s.withBudget b) = withBudgetOf b (ldmReturnBody f s) := by
  unfold ldmReturnBody
  simp only [readArm_withBudget, loadSlots_withBudget, memRead_withBudget, blockWriteBack_withBudget]
  rw [writeSlots_withBudget writeReg_withBudget, charge_withBudget, exceptionReturn_withBudget]

theorem push_withBudget (r : Bool) (l : BitVec 8) (s : State) (b : Int) :
    execTPush r l (s.withBudget b) = withBudgetOf b (execTPush r l s) := by
  unfold execTPush
  dsimp only
  split
  · rfl
  · simp only [readThumb_withBudget, withBudgetOf_next]
    rw [storeSlots_withBudget (fun _ _ _ => rfl), writeReg_withBudget, charge_withBudget]

theorem pop_withBudget (r : Bool) (l : BitVec 8) (s : State) (b : Int) :
    execTPop r l (s.withBudget b) = withBudgetOf b (execTPop r l s) := by
  unfold execTPop
  dsimp only
  split
  · rfl
  · simp only [readThumb_withBudget, loadSlots_withBudget, withBudgetOf_next]
    rw [writeSlots_withBudget writeReg_withBudget, writeReg_withBudget, charge_withBudget]

theorem stmia_withBudget (rb : LowReg) (l : BitVec 8) (s : State) (b : Int) :
    execTStmia rb l (s.withBudget b) = withBudgetOf b (execTStmia rb l s) := by
  unfold execTStmia
  split
  · rfl
  · unfold thumbStoreBlock
    split
    · rfl
    · simp only [low, readThumb_withBudget, memWrite_withBudget, writeReg_withBudget, withBudgetOf_next]
      rw [storeSlots_withBudget (fun _ _ _ => rfl), charge_withBudget]

theorem ldmia_withBudget (rb : LowReg) (l : BitVec 8) (s : State) (b : Int) :
    execTLdmia rb l (s.withBudget b) = withBudgetOf b (execTLdmia rb l s) := by
  unfold execTLdmia
  dsimp only
  split
  · rfl
  · simp only [low, readThumb_withBudget, loadSlots_withBudget, withBudgetOf_next]
    rw [writeSlots_withBudget writeReg_withBudget]
    split
    · rfl
    · rw [writeReg_withBudget, charge_withBudget]

theorem mrs_withBudget (f : MrsFields) (s : State) (b : Int) : execMrs f (s.withBudget b) = withBudgetOf b (execMrs f s) := by
  refine guarded_withBudget (fun s b => ?_) s b
  have h1 : mrsDraw f.r ((s.withBudget b).charge .psr) = (mrsDraw f.r (s.charge .psr)).withBudget b := by
    rw [charge_withBudget]
    unfold mrsDraw
    by_cases h : (f.r && (excModeOf (s.charge .psr).cpsr.mode).isNone) = true
    · rw [if_pos h, if_pos (by exact h)]
      rfl
    · rw [if_neg h, if_neg (by exact h)]
  have h2 : mrsValue f.r (s.withBudget b) = mrsValue f.r s := by
    unfold mrsValue
    simp only [withBudget_cpsr, withBudget_spsr, withBudget_draws]
  rw [h1, h2, writeReg_withBudget, withBudgetOf_next]

theorem dpImm_withBudget (op : AluOp) (f : DpImm) (s : State) (b : Int) :
    dpImm op f (s.withBudget b) = withBudgetOf b (dpImm op f s) := by
  unfold dpImm guarded
  rw [withBudget_cpsr]
  split
  · exact dpWrite_withBudget f.s f.rd (resultDpImm f op s) (s.charge .alu) b
  · rfl

theorem compareImm_withBudget (op : AluOp) (f : CmpImm) (s : State) (b : Int) :
    compareImm op f (s.withBudget b) = withBudgetOf b (compareImm op f s) := by
  unfold compareImm guarded
  rw [withBudget_cpsr]
  split <;> rfl

theorem dpReg_withBudget (op : AluOp) (f : DpReg) (s : State) (b : Int) :
    dpReg op f (s.withBudget b) = withBudgetOf b (dpReg op f s) := by
  unfold dpReg guarded
  rw [withBudget_cpsr]
  split
  · exact dpWrite_withBudget f.s f.rd (resultDpReg f op s) (s.charge .alu) b
  · rfl

theorem compareReg_withBudget (op : AluOp) (f : CmpReg) (s : State) (b : Int) :
    compareReg op f (s.withBudget b) = withBudgetOf b (compareReg op f s) := by
  unfold compareReg guarded
  rw [withBudget_cpsr]
  split <;> rfl

theorem dpRsr_withBudget (op : AluOp) (f : DpRsr) (s : State) (b : Int) :
    dpRsr op f (s.withBudget b) = withBudgetOf b (dpRsr op f s) := by
  unfold dpRsr guarded
  rw [withBudget_cpsr]
  split
  · exact dpWrite_withBudget f.s f.rd (resultDpRsr f op s) (s.charge .aluRshift) b
  · rfl

theorem compareRsr_withBudget (op : AluOp) (f : CmpRsr) (s : State) (b : Int) :
    compareRsr op f (s.withBudget b) = withBudgetOf b (compareRsr op f s) := by
  unfold compareRsr guarded
  rw [withBudget_cpsr]
  split <;> rfl

theorem exec_budget (i : Instr) (s : State) (b : Int) : exec i (s.withBudget b) = withBudgetOf b (exec i s) := by
  cases i with
  | andImm f => exact dpImm_withBudget _ f s b
  | andReg f => exact dpReg_withBudget _ f s b
  | andRsr f => exact dpRsr_withBudget _ f s b
  | eorImm f => exact dpImm_withBudget _ f s b
  | eorReg f => exact dpReg_withBudget _ f s b
  | eorRsr f => exact dpRsr_withBudget _ f s b
  | subImm f => exact dpImm_withBudget _ f s b
  | subReg f => exact dpReg_withBudget _ f s b
  | subRsr f => exact dpRsr_withBudget _ f s b
  | rsbImm f => exact dpImm_withBudget _ f s b
  | rsbReg f => exact dpReg_withBudget _ f s b
  | rsbRsr f => exact dpRsr_withBudget _ f s b
  | addImm f => exact dpImm_withBudget _ f s b
  | addReg f => exact dpReg_withBudget _ f s b
  | addRsr f => exact dpRsr_withBudget _ f s b
  | adcImm f => exact dpImm_withBudget _ f s b
  | adcReg f => exact dpReg_withBudget _ f s b
  | adcRsr f => exact dpRsr_withBudget _ f s b
  | sbcImm f => exact dpImm_withBudget _ f s b
  | sbcReg f => exact dpReg_withBudget _ f s b
  | sbcRsr f => exact dpRsr_withBudget _ f s b
  | rscImm f => exact dpImm_withBudget _ f s b
  | rscReg f => exact dpReg_withBudget _ f s b
  | rscRsr f => exact dpRsr_withBudget _ f s b
  | tstImm f => exact compareImm_withBudget _ f s b
  | tstReg f => exact compareReg_withBudget _ f s b
  | tstRsr f => exact compareRsr_withBudget _ f s b
  | teqImm f => exact compareImm_withBudget _ f s b
  | teqReg f => exact compareReg_withBudget _ f s b
  | teqRsr f => exact compareRsr_withBudget _ f s b
  | cmpImm f => exact compareImm_withBudget _ f s b
  | cmpReg f => exact compareReg_withBudget _ f s b
  | cmpRsr f => exact compareRsr_withBudget _ f s b
  | cmnImm f => exact compareImm_withBudget _ f s b
  | cmnReg f => exact compareReg_withBudget _ f s b
  | cmnRsr f => exact compareRsr_withBudget _ f s b
  | orrImm f => exact dpImm_withBudget _ f s b
  | orrReg f => exact dpReg_withBudget _ f s b
  | orrRsr f => exact dpRsr_withBudget _ f s b
  | movImm f => exact dpImm_withBudget _ f s b
  | movReg f => exact dpReg_withBudget _ f s b
  | movRsr f => exact dpRsr_withBudget _ f s b
  | bicImm f => exact dpImm_withBudget _ f s b
  | bicReg f => exact dpReg_withBudget _ f s b
  | bicRsr f => exact dpRsr_withBudget _ f s b
  | mvnImm f => exact dpImm_withBudget _ f s b
  | mvnReg f => exact dpReg_withBudget _ f s b
  | mvnRsr f => exact dpRsr_withBudget _ f s b
  | mrs f => exact mrs_withBudget f s b
  | msrReg f =>
    show execMsrReg f _ = withBudgetOf b (execMsrReg f s)
    unfold execMsrReg guarded
    rw [withBudget_cpsr]
    split
    · exact msr_withBudget f.r f.fieldMask (readArm f.rm s) (s.charge .psr) b
    · rfl
  | msrImm f =>
    show execMsrImm f _ = withBudgetOf b (execMsrImm f s)
    unfold execMsrImm guarded
    rw [withBudget_cpsr]
    split
    · exact msr_withBudget f.r f.fieldMask (immOperand f.rotate f.imm8 s.cpsr.c).1 (s.charge .psr) b
    · rfl
  | bx f =>
    show execBx f _ = withBudgetOf b (execBx f s)
    unfold execBx guarded
    rw [withBudget_cpsr]
    split
    · exact rfl
    · rfl
  | mul f =>
    show execMul f _ = withBudgetOf b (execMul f s)
    unfold execMul guarded
    rw [withBudget_cpsr]
    split
    · exact congrArg Host.Outcome.next
        (mulWrite_withBudget f.s f.rd (readArm f.rm s * readArm f.rs s)
          (s.charge .mul (mcSigned (readArm f.rs s))) b)
    · rfl
  | mla f =>
    show execMla f _ = withBudgetOf b (execMla f s)
    unfold execMla guarded
    rw [withBudget_cpsr]
    split
    · exact congrArg Host.Outcome.next
        (mulWrite_withBudget f.s f.rd (readArm f.rm s * readArm f.rs s + readArm f.rn s)
          (s.charge .mla (mcSigned (readArm f.rs s))) b)
    · rfl
  | umull f =>
    show execUmull f _ = withBudgetOf b (execUmull f s)
    unfold execUmull guarded
    rw [withBudget_cpsr]
    split
    · exact congrArg Host.Outcome.next
        (mullWrite_withBudget f.s f.rdLo f.rdHi (unsignedProduct (readArm f.rm s) (readArm f.rs s))
          (s.charge .mull (mcUnsigned (readArm f.rs s))) b)
    · rfl
  | umlal f =>
    show execUmlal f _ = withBudgetOf b (execUmlal f s)
    unfold execUmlal guarded
    rw [withBudget_cpsr]
    split
    · exact congrArg Host.Outcome.next
        (mullWrite_withBudget f.s f.rdLo f.rdHi (unsignedProduct (readArm f.rm s) (readArm f.rs s) + mullAccumulator f s)
          (s.charge .mlal (mcUnsigned (readArm f.rs s))) b)
    · rfl
  | smull f =>
    show execSmull f _ = withBudgetOf b (execSmull f s)
    unfold execSmull guarded
    rw [withBudget_cpsr]
    split
    · exact congrArg Host.Outcome.next
        (mullWrite_withBudget f.s f.rdLo f.rdHi (signedProduct (readArm f.rm s) (readArm f.rs s))
          (s.charge .mull (mcSigned (readArm f.rs s))) b)
    · rfl
  | smlal f =>
    show execSmlal f _ = withBudgetOf b (execSmlal f s)
    unfold execSmlal guarded
    rw [withBudget_cpsr]
    split
    · exact congrArg Host.Outcome.next
        (mullWrite_withBudget f.s f.rdLo f.rdHi (signedProduct (readArm f.rm s) (readArm f.rs s) + mullAccumulator f s)
          (s.charge .mlal (mcSigned (readArm f.rs s))) b)
    · rfl
  | swp f =>
    show execSwp f _ = withBudgetOf b (execSwp f s)
    unfold execSwp guarded
    rw [withBudget_cpsr]
    split
    · exact congrArg Host.Outcome.next (swap_withBudget _ _ _ _ _ s b)
    · rfl
  | swpb f =>
    show execSwpb f _ = withBudgetOf b (execSwpb f s)
    unfold execSwpb guarded
    rw [withBudget_cpsr]
    split
    · exact congrArg Host.Outcome.next (swap_withBudget _ _ _ _ _ s b)
    · rfl
  | strhReg f =>
    show execStrhReg f _ = withBudgetOf b (execStrhReg f s)
    unfold execStrhReg guarded
    rw [withBudget_cpsr]
    split
    · exact congrArg Host.Outcome.next (singleStore_withBudget _ _ _ _ s b)
    · rfl
  | strhImm f =>
    show execStrhImm f _ = withBudgetOf b (execStrhImm f s)
    unfold execStrhImm guarded
    rw [withBudget_cpsr]
    split
    · exact congrArg Host.Outcome.next (singleStore_withBudget _ _ _ _ s b)
    · rfl
  | ldrhReg f =>
    show execLdrhReg f _ = withBudgetOf b (execLdrhReg f s)
    unfold execLdrhReg guarded
    rw [withBudget_cpsr]
    split
    · exact congrArg Host.Outcome.next (singleLoad_withBudget _ _ _ _ s b)
    · rfl
  | ldrhImm f =>
    show execLdrhImm f _ = withBudgetOf b (execLdrhImm f s)
    unfold execLdrhImm guarded
    rw [withBudget_cpsr]
    split
    · exact congrArg Host.Outcome.next (singleLoad_withBudget _ _ _ _ s b)
    · rfl
  | ldrsbReg f =>
    show execLdrsbReg f _ = withBudgetOf b (execLdrsbReg f s)
    unfold execLdrsbReg guarded
    rw [withBudget_cpsr]
    split
    · exact congrArg Host.Outcome.next (singleLoad_withBudget _ _ _ _ s b)
    · rfl
  | ldrsbImm f =>
    show execLdrsbImm f _ = withBudgetOf b (execLdrsbImm f s)
    unfold execLdrsbImm guarded
    rw [withBudget_cpsr]
    split
    · exact congrArg Host.Outcome.next (singleLoad_withBudget _ _ _ _ s b)
    · rfl
  | ldrshReg f =>
    show execLdrshReg f _ = withBudgetOf b (execLdrshReg f s)
    unfold execLdrshReg guarded
    rw [withBudget_cpsr]
    split
    · exact congrArg Host.Outcome.next (singleLoad_withBudget _ _ _ _ s b)
    · rfl
  | ldrshImm f =>
    show execLdrshImm f _ = withBudgetOf b (execLdrshImm f s)
    unfold execLdrshImm guarded
    rw [withBudget_cpsr]
    split
    · exact congrArg Host.Outcome.next (singleLoad_withBudget _ _ _ _ s b)
    · rfl
  | ldrImmPre f =>
    show execLdrImmPre f _ = withBudgetOf b (execLdrImmPre f s)
    unfold execLdrImmPre guarded
    rw [withBudget_cpsr]
    split
    · exact congrArg Host.Outcome.next (singleLoad_withBudget _ _ _ _ s b)
    · rfl
  | ldrImmPost f =>
    show execLdrImmPost f _ = withBudgetOf b (execLdrImmPost f s)
    unfold execLdrImmPost guarded
    rw [withBudget_cpsr]
    split
    · exact congrArg Host.Outcome.next (singleLoad_withBudget _ _ _ _ s b)
    · rfl
  | ldrtImm f =>
    show execLdrtImm f _ = withBudgetOf b (execLdrtImm f s)
    unfold execLdrtImm guarded
    rw [withBudget_cpsr]
    split
    · exact congrArg Host.Outcome.next (singleLoad_withBudget _ _ _ _ s b)
    · rfl
  | strImmPre f =>
    show execStrImmPre f _ = withBudgetOf b (execStrImmPre f s)
    unfold execStrImmPre guarded
    rw [withBudget_cpsr]
    split
    · exact congrArg Host.Outcome.next (singleStore_withBudget _ _ _ _ s b)
    · rfl
  | strImmPost f =>
    show execStrImmPost f _ = withBudgetOf b (execStrImmPost f s)
    unfold execStrImmPost guarded
    rw [withBudget_cpsr]
    split
    · exact congrArg Host.Outcome.next (singleStore_withBudget _ _ _ _ s b)
    · rfl
  | strtImm f =>
    show execStrtImm f _ = withBudgetOf b (execStrtImm f s)
    unfold execStrtImm guarded
    rw [withBudget_cpsr]
    split
    · exact congrArg Host.Outcome.next (singleStore_withBudget _ _ _ _ s b)
    · rfl
  | ldrbImmPre f =>
    show execLdrbImmPre f _ = withBudgetOf b (execLdrbImmPre f s)
    unfold execLdrbImmPre guarded
    rw [withBudget_cpsr]
    split
    · exact congrArg Host.Outcome.next (singleLoad_withBudget _ _ _ _ s b)
    · rfl
  | ldrbImmPost f =>
    show execLdrbImmPost f _ = withBudgetOf b (execLdrbImmPost f s)
    unfold execLdrbImmPost guarded
    rw [withBudget_cpsr]
    split
    · exact congrArg Host.Outcome.next (singleLoad_withBudget _ _ _ _ s b)
    · rfl
  | ldrbtImm f =>
    show execLdrbtImm f _ = withBudgetOf b (execLdrbtImm f s)
    unfold execLdrbtImm guarded
    rw [withBudget_cpsr]
    split
    · exact congrArg Host.Outcome.next (singleLoad_withBudget _ _ _ _ s b)
    · rfl
  | strbImmPre f =>
    show execStrbImmPre f _ = withBudgetOf b (execStrbImmPre f s)
    unfold execStrbImmPre guarded
    rw [withBudget_cpsr]
    split
    · exact congrArg Host.Outcome.next (singleStore_withBudget _ _ _ _ s b)
    · rfl
  | strbImmPost f =>
    show execStrbImmPost f _ = withBudgetOf b (execStrbImmPost f s)
    unfold execStrbImmPost guarded
    rw [withBudget_cpsr]
    split
    · exact congrArg Host.Outcome.next (singleStore_withBudget _ _ _ _ s b)
    · rfl
  | strbtImm f =>
    show execStrbtImm f _ = withBudgetOf b (execStrbtImm f s)
    unfold execStrbtImm guarded
    rw [withBudget_cpsr]
    split
    · exact congrArg Host.Outcome.next (singleStore_withBudget _ _ _ _ s b)
    · rfl
  | ldrRegPre f =>
    show execLdrRegPre f _ = withBudgetOf b (execLdrRegPre f s)
    unfold execLdrRegPre guarded
    rw [withBudget_cpsr]
    split
    · exact congrArg Host.Outcome.next (singleLoad_withBudget _ _ _ _ s b)
    · rfl
  | ldrRegPost f =>
    show execLdrRegPost f _ = withBudgetOf b (execLdrRegPost f s)
    unfold execLdrRegPost guarded
    rw [withBudget_cpsr]
    split
    · exact congrArg Host.Outcome.next (singleLoad_withBudget _ _ _ _ s b)
    · rfl
  | ldrtReg f =>
    show execLdrtReg f _ = withBudgetOf b (execLdrtReg f s)
    unfold execLdrtReg guarded
    rw [withBudget_cpsr]
    split
    · exact congrArg Host.Outcome.next (singleLoad_withBudget _ _ _ _ s b)
    · rfl
  | strRegPre f =>
    show execStrRegPre f _ = withBudgetOf b (execStrRegPre f s)
    unfold execStrRegPre guarded
    rw [withBudget_cpsr]
    split
    · exact congrArg Host.Outcome.next (singleStore_withBudget _ _ _ _ s b)
    · rfl
  | strRegPost f =>
    show execStrRegPost f _ = withBudgetOf b (execStrRegPost f s)
    unfold execStrRegPost guarded
    rw [withBudget_cpsr]
    split
    · exact congrArg Host.Outcome.next (singleStore_withBudget _ _ _ _ s b)
    · rfl
  | strtReg f =>
    show execStrtReg f _ = withBudgetOf b (execStrtReg f s)
    unfold execStrtReg guarded
    rw [withBudget_cpsr]
    split
    · exact congrArg Host.Outcome.next (singleStore_withBudget _ _ _ _ s b)
    · rfl
  | ldrbRegPre f =>
    show execLdrbRegPre f _ = withBudgetOf b (execLdrbRegPre f s)
    unfold execLdrbRegPre guarded
    rw [withBudget_cpsr]
    split
    · exact congrArg Host.Outcome.next (singleLoad_withBudget _ _ _ _ s b)
    · rfl
  | ldrbRegPost f =>
    show execLdrbRegPost f _ = withBudgetOf b (execLdrbRegPost f s)
    unfold execLdrbRegPost guarded
    rw [withBudget_cpsr]
    split
    · exact congrArg Host.Outcome.next (singleLoad_withBudget _ _ _ _ s b)
    · rfl
  | ldrbtReg f =>
    show execLdrbtReg f _ = withBudgetOf b (execLdrbtReg f s)
    unfold execLdrbtReg guarded
    rw [withBudget_cpsr]
    split
    · exact congrArg Host.Outcome.next (singleLoad_withBudget _ _ _ _ s b)
    · rfl
  | strbRegPre f =>
    show execStrbRegPre f _ = withBudgetOf b (execStrbRegPre f s)
    unfold execStrbRegPre guarded
    rw [withBudget_cpsr]
    split
    · exact congrArg Host.Outcome.next (singleStore_withBudget _ _ _ _ s b)
    · rfl
  | strbRegPost f =>
    show execStrbRegPost f _ = withBudgetOf b (execStrbRegPost f s)
    unfold execStrbRegPost guarded
    rw [withBudget_cpsr]
    split
    · exact congrArg Host.Outcome.next (singleStore_withBudget _ _ _ _ s b)
    · rfl
  | strbtReg f =>
    show execStrbtReg f _ = withBudgetOf b (execStrbtReg f s)
    unfold execStrbtReg guarded
    rw [withBudget_cpsr]
    split
    · exact congrArg Host.Outcome.next (singleStore_withBudget _ _ _ _ s b)
    · rfl
  | ldm f => exact guarded_withBudget (ldm_withBudget f) s b
  | ldmUser f => exact guarded_withBudget (ldmUser_withBudget f) s b
  | ldmReturn f => exact guarded_withBudget (ldmReturn_withBudget f) s b
  | stm f => exact guarded_withBudget (stm_withBudget f) s b
  | stmUser f => exact guarded_withBudget (stmUser_withBudget f) s b
  | b f =>
    show execB f _ = withBudgetOf b (execB f s)
    unfold execB guarded
    rw [withBudget_cpsr]
    split
    · exact rfl
    · rfl
  | bl f =>
    show execBl f _ = withBudgetOf b (execBl f s)
    unfold execBl guarded
    rw [withBudget_cpsr]
    split
    · exact rfl
    · rfl
  | stc f =>
    show execStc f _ = withBudgetOf b (execStc f s)
    unfold execStc guarded
    rw [withBudget_cpsr]
    split
    · exact rfl
    · rfl
  | ldc f =>
    show execLdc f _ = withBudgetOf b (execLdc f s)
    unfold execLdc guarded
    rw [withBudget_cpsr]
    split
    · exact rfl
    · rfl
  | cdp f =>
    show execCdp f _ = withBudgetOf b (execCdp f s)
    unfold execCdp guarded
    rw [withBudget_cpsr]
    split
    · exact rfl
    · rfl
  | mcr f =>
    show execMcr f _ = withBudgetOf b (execMcr f s)
    unfold execMcr guarded
    rw [withBudget_cpsr]
    split
    · exact rfl
    · rfl
  | mrc f =>
    show execMrc f _ = withBudgetOf b (execMrc f s)
    unfold execMrc guarded
    rw [withBudget_cpsr]
    split
    · exact rfl
    · rfl
  | swi f =>
    show execSwi f _ = withBudgetOf b (execSwi f s)
    unfold execSwi guarded
    rw [withBudget_cpsr]
    split
    · exact rfl
    · rfl
  | und f =>
    show execUnd f _ = withBudgetOf b (execUnd f s)
    unfold execUnd guarded
    rw [withBudget_cpsr]
    split
    · exact rfl
    · rfl
  | tLslImm offset5 rs rd =>
    show execTLslImm offset5 rs rd _ = withBudgetOf b (execTLslImm offset5 rs rd s)
    simp [execTLslImm, thumbShiftImm, low]
  | tLsrImm offset5 rs rd =>
    show execTLsrImm offset5 rs rd _ = withBudgetOf b (execTLsrImm offset5 rs rd s)
    simp [execTLsrImm, thumbShiftImm, low]
  | tAsrImm offset5 rs rd =>
    show execTAsrImm offset5 rs rd _ = withBudgetOf b (execTAsrImm offset5 rs rd s)
    simp [execTAsrImm, thumbShiftImm, low]
  | tAddReg rn rs rd =>
    show execTAddReg rn rs rd _ = withBudgetOf b (execTAddReg rn rs rd s)
    simp [execTAddReg, low]
  | tSubReg rn rs rd =>
    show execTSubReg rn rs rd _ = withBudgetOf b (execTSubReg rn rs rd s)
    simp [execTSubReg, low]
  | tAddImm3 imm3 rs rd =>
    show execTAddImm3 imm3 rs rd _ = withBudgetOf b (execTAddImm3 imm3 rs rd s)
    simp [execTAddImm3, low]
  | tSubImm3 imm3 rs rd =>
    show execTSubImm3 imm3 rs rd _ = withBudgetOf b (execTSubImm3 imm3 rs rd s)
    simp [execTSubImm3, low]
  | tMovImm8 rd imm8 =>
    show execTMovImm8 rd imm8 _ = withBudgetOf b (execTMovImm8 rd imm8 s)
    simp [execTMovImm8]
  | tCmpImm8 rd imm8 => rfl
  | tAddImm8 rd imm8 =>
    show execTAddImm8 rd imm8 _ = withBudgetOf b (execTAddImm8 rd imm8 s)
    simp [execTAddImm8, low]
  | tSubImm8 rd imm8 =>
    show execTSubImm8 rd imm8 _ = withBudgetOf b (execTSubImm8 rd imm8 s)
    simp [execTSubImm8, low]
  | tAnd rs rd =>
    show execTAnd rs rd _ = withBudgetOf b (execTAnd rs rd s)
    simp [execTAnd, low]
  | tEor rs rd =>
    show execTEor rs rd _ = withBudgetOf b (execTEor rs rd s)
    simp [execTEor, low]
  | tLsl rs rd =>
    show execTLsl rs rd _ = withBudgetOf b (execTLsl rs rd s)
    simp [execTLsl, thumbShiftReg, low]
  | tLsr rs rd =>
    show execTLsr rs rd _ = withBudgetOf b (execTLsr rs rd s)
    simp [execTLsr, thumbShiftReg, low]
  | tAsr rs rd =>
    show execTAsr rs rd _ = withBudgetOf b (execTAsr rs rd s)
    simp [execTAsr, thumbShiftReg, low]
  | tAdc rs rd =>
    show execTAdc rs rd _ = withBudgetOf b (execTAdc rs rd s)
    simp [execTAdc, low]
  | tSbc rs rd =>
    show execTSbc rs rd _ = withBudgetOf b (execTSbc rs rd s)
    simp [execTSbc, low]
  | tRor rs rd =>
    show execTRor rs rd _ = withBudgetOf b (execTRor rs rd s)
    simp [execTRor, thumbShiftReg, low]
  | tTst rs rd => rfl
  | tNeg rs rd =>
    show execTNeg rs rd _ = withBudgetOf b (execTNeg rs rd s)
    simp [execTNeg, low]
  | tCmp rs rd => rfl
  | tCmn rs rd => rfl
  | tOrr rs rd =>
    show execTOrr rs rd _ = withBudgetOf b (execTOrr rs rd s)
    simp [execTOrr, low]
  | tMul rs rd =>
    show execTMul rs rd _ = withBudgetOf b (execTMul rs rd s)
    simp [execTMul, low]
    rfl
  | tBic rs rd =>
    show execTBic rs rd _ = withBudgetOf b (execTBic rs rd s)
    simp [execTBic, low]
  | tMvn rs rd =>
    show execTMvn rs rd _ = withBudgetOf b (execTMvn rs rd s)
    simp [execTMvn, low]
  | tAddHi h1 h2 rs rd =>
    show execTAddHi h1 h2 rs rd _ = withBudgetOf b (execTAddHi h1 h2 rs rd s)
    simp [execTAddHi]
  | tCmpHi h1 h2 rs rd => rfl
  | tMovHi h1 h2 rs rd =>
    show execTMovHi h1 h2 rs rd _ = withBudgetOf b (execTMovHi h1 h2 rs rd s)
    simp [execTMovHi]
  | tBx h2 rs sbz => rfl
  | tLdrPc rd word8 => exact congrArg Host.Outcome.next (thumbLoad_withBudget _ _ _ s b)
  | tStrReg ro rb rd => exact congrArg Host.Outcome.next (thumbStore_withBudget _ _ _ s b)
  | tStrbReg ro rb rd => exact congrArg Host.Outcome.next (thumbStore_withBudget _ _ _ s b)
  | tLdrReg ro rb rd => exact congrArg Host.Outcome.next (thumbLoad_withBudget _ _ _ s b)
  | tLdrbReg ro rb rd => exact congrArg Host.Outcome.next (thumbLoad_withBudget _ _ _ s b)
  | tStrhReg ro rb rd => exact congrArg Host.Outcome.next (thumbStore_withBudget _ _ _ s b)
  | tLdsbReg ro rb rd => exact congrArg Host.Outcome.next (thumbLoad_withBudget _ _ _ s b)
  | tLdrhReg ro rb rd => exact congrArg Host.Outcome.next (thumbLoad_withBudget _ _ _ s b)
  | tLdshReg ro rb rd => exact congrArg Host.Outcome.next (thumbLoad_withBudget _ _ _ s b)
  | tStrImm offset5 rb rd => exact congrArg Host.Outcome.next (thumbStore_withBudget _ _ _ s b)
  | tLdrImm offset5 rb rd => exact congrArg Host.Outcome.next (thumbLoad_withBudget _ _ _ s b)
  | tStrbImm offset5 rb rd => exact congrArg Host.Outcome.next (thumbStore_withBudget _ _ _ s b)
  | tLdrbImm offset5 rb rd => exact congrArg Host.Outcome.next (thumbLoad_withBudget _ _ _ s b)
  | tStrhImm offset5 rb rd => exact congrArg Host.Outcome.next (thumbStore_withBudget _ _ _ s b)
  | tLdrhImm offset5 rb rd => exact congrArg Host.Outcome.next (thumbLoad_withBudget _ _ _ s b)
  | tStrSp rd word8 => exact congrArg Host.Outcome.next (thumbStore_withBudget _ _ _ s b)
  | tLdrSp rd word8 => exact congrArg Host.Outcome.next (thumbLoad_withBudget _ _ _ s b)
  | tAddPc rd word8 =>
    show execTAddPc rd word8 _ = withBudgetOf b (execTAddPc rd word8 s)
    simp [execTAddPc, thumbPcBase]
  | tAddSp rd word8 =>
    show execTAddSp rd word8 _ = withBudgetOf b (execTAddSp rd word8 s)
    simp [execTAddSp]
  | tIncSp sword7 =>
    show execTIncSp sword7 _ = withBudgetOf b (execTIncSp sword7 s)
    simp [execTIncSp]
  | tDecSp sword7 =>
    show execTDecSp sword7 _ = withBudgetOf b (execTDecSp sword7 s)
    simp [execTDecSp]
  | tPush r rlist => exact push_withBudget r rlist s b
  | tPop r rlist => exact pop_withBudget r rlist s b
  | tStmia rb rlist => exact stmia_withBudget rb rlist s b
  | tLdmia rb rlist => exact ldmia_withBudget rb rlist s b
  | tBeq soffset8 => exact congrArg Host.Outcome.next (condBranch_withBudget _ _ s b)
  | tBne soffset8 => exact congrArg Host.Outcome.next (condBranch_withBudget _ _ s b)
  | tBcs soffset8 => exact congrArg Host.Outcome.next (condBranch_withBudget _ _ s b)
  | tBcc soffset8 => exact congrArg Host.Outcome.next (condBranch_withBudget _ _ s b)
  | tBmi soffset8 => exact congrArg Host.Outcome.next (condBranch_withBudget _ _ s b)
  | tBpl soffset8 => exact congrArg Host.Outcome.next (condBranch_withBudget _ _ s b)
  | tBvs soffset8 => exact congrArg Host.Outcome.next (condBranch_withBudget _ _ s b)
  | tBvc soffset8 => exact congrArg Host.Outcome.next (condBranch_withBudget _ _ s b)
  | tBhi soffset8 => exact congrArg Host.Outcome.next (condBranch_withBudget _ _ s b)
  | tBls soffset8 => exact congrArg Host.Outcome.next (condBranch_withBudget _ _ s b)
  | tBge soffset8 => exact congrArg Host.Outcome.next (condBranch_withBudget _ _ s b)
  | tBlt soffset8 => exact congrArg Host.Outcome.next (condBranch_withBudget _ _ s b)
  | tBgt soffset8 => exact congrArg Host.Outcome.next (condBranch_withBudget _ _ s b)
  | tBle soffset8 => exact congrArg Host.Outcome.next (condBranch_withBudget _ _ s b)
  | tUnd any => rfl
  | tSwi value8 => rfl
  | tB offset11 => rfl
  | tBlFirst offset11 =>
    show execTBlFirst offset11 _ = withBudgetOf b (execTBlFirst offset11 s)
    simp [execTBlFirst]
  | tBlSecond offset11 =>
    show execTBlSecond offset11 _ = withBudgetOf b (execTBlSecond offset11 s)
    simp [execTBlSecond]

@[simp] theorem fetch_withBudget (s : State) (b : Int) :
    fetch (s.withBudget b) = ((fetch s).1, (fetch s).2.withBudget b) := rfl

theorem executeFetched_withBudget (w : Word) (s : State) (b : Int) :
    executeFetched (w, s.withBudget b) = withBudgetOf b (executeFetched (w, s)) := by
  unfold executeFetched
  dsimp only
  rw [withBudget_cpsr]
  split
  · exact exec_budget _ s b
  · unfold takeNoRow guarded
    rw [withBudget_cpsr]
    by_cases h : s.cpsr.t = true
    · rw [if_pos h, if_pos h]
      rfl
    · rw [if_neg h, if_neg h]
      split <;> rfl

theorem boundaryCheck_withBudget (s : State) (b : Int) :
    boundaryCheck (s.withBudget b) = (boundaryCheck s).withBudget b := by
  have hp : (s.withBudget b).interruptPending = s.interruptPending := rfl
  unfold boundaryCheck wake Config.haltWakeRequiresIClear
  rw [hp, withBudget_cpsr]
  cases s.interruptPending
  · rfl
  · cases h : s.cpsr.i <;> simp [h] <;> rfl

theorem chargeRefill_withBudget (s : State) (b : Int) : chargeRefill (s.withBudget b) = (chargeRefill s).withBudget b := by
  unfold chargeRefill
  have hw : (s.withBudget b).wrotePc = s.wrotePc := rfl
  rw [hw]
  split <;> rfl

/-- An awake core's step does not look at the budget: it only subtracts from it (R452, R459). -/
theorem step_withBudget {s t : State} (d : Int) (h : s.halted = false) (e : step s = .next t) :
    step (s.withBudget (s.budget + d)) = .next (t.withBudget (t.budget + d)) := by
  have h' : (s.withBudget (s.budget + d)).halted = false := h
  unfold step at e ⊢
  rw [h] at e
  rw [h']
  obtain ⟨u, hu, rfl⟩ := andThen_next e
  show andThen (executeFetched (fetch (s.withBudget (s.budget + d)))) completeStep = _
  rw [fetch_withBudget, executeFetched_withBudget]
  show andThen (withBudgetOf _ (executeFetched (fetch s))) completeStep = _
  rw [hu]
  show Host.Outcome.next _ = Host.Outcome.next _
  congr 1
  unfold completeStep
  rw [chargeRefill_withBudget, boundaryCheck_withBudget]
  have hb : (boundaryCheck (chargeRefill u)).budget = s.budget := by
    rw [boundaryCheck_budget, chargeRefill_budget]
    exact (executeFetched_cost hu).1
  generalize boundaryCheck (chargeRefill u) = v at *
  unfold account State.withBudget State.tick
  dsimp only
  congr 1
  rw [hb]
  omega

end Sys2Proof.Machine
end

