-- ==== Sys2Proof/Laws/Decode.lean ====
section
/-! SUPPORT. Bits of concatenations, so that a field of an encoded word is read back; the operand codes round-trip. -/

namespace Sys2Proof

/-- A field above the lower part of a concatenation is a field of the upper part. -/
theorem fld_hi (x : BitVec v) (y : BitVec w) {lo n : Nat} (h : w ≤ lo) : fld (x ++ y) lo n = fld x (lo - w) n :=
  BitVec.extractLsb'_append_eq_of_le h

/-- A field inside the lower part of a concatenation is a field of that part. -/
theorem fld_lo (x : BitVec v) (y : BitVec w) {lo n : Nat} (h : lo + n ≤ w) : fld (x ++ y) lo n = fld y lo n :=
  BitVec.extractLsb'_append_eq_of_add_le h

@[simp] theorem fld_self (x : BitVec w) : fld x 0 w = x := BitVec.extractLsb'_eq_self

theorem bit_hi (x : BitVec v) (y : BitVec w) {i : Nat} (h : w ≤ i) : bit (x ++ y) i = bit x (i - w) := by
  rw [bit, fld_hi x y h, bit]

theorem bit_lo (x : BitVec v) (y : BitVec w) {i : Nat} (h : i < w) : bit (x ++ y) i = bit y i := by
  rw [bit, fld_lo x y h, bit]

@[simp] theorem bit_ofBool (b : Bool) : bit (BitVec.ofBool b) 0 = b := by cases b <;> rfl

@[simp] theorem ofBits_bits (c : Cond) : Cond.ofBits c.bits = c := by cases c <;> rfl

@[simp] theorem ShiftType.ofBits_bits (t : ShiftType) : ShiftType.ofBits t.bits = t := by cases t <;> rfl

theorem Cond.bits_ofBits (b : BitVec 4) : (Cond.ofBits b).bits = b := by
  revert b
  decide

theorem ShiftType.bits_ofBits (b : BitVec 2) : (ShiftType.ofBits b).bits = b := by
  revert b
  decide

@[simp] theorem ofBool_bit (x : BitVec w) (i : Nat) : BitVec.ofBool (bit x i) = fld x i 1 := by
  unfold bit
  generalize fld x i 1 = y
  revert y
  decide

/-- Two adjacent fields make one. -/
theorem fld_append (x : BitVec w) (lo m n : Nat) : fld x (lo + n) m ++ fld x lo n = fld x lo (m + n) := by
  refine BitVec.eq_of_getLsbD_eq fun i hi => ?_
  simp only [fld, BitVec.getLsbD_append, BitVec.getLsbD_extractLsb']
  by_cases h : i < n
  · simp [h, show i < m + n by omega]
  · simp [h, show i - n < m by omega, hi, show lo + n + (i - n) = lo + i by omega]

end Sys2Proof
end

