-- ==== Sys2Proof/Tests/Slice0.lean ====
section
/-! SUPPORT. The model's own tests. The words and the expected results come from spec/30_encoding.md, spec/opcode_table.json
and spec/95_test_vectors.md, not from the model; the last part gives, for each statement of
Sys2Proof/Certificates/Slice0/Obligations.lean with hypotheses, states and operands that meet them. -/

namespace Sys2Proof.Tests

open Sys2Proof Sys2Proof.Machine Sys2Proof.Machine.Claims

/-! ## Well-formedness: an ill-formed term for each check -/

theorem test_wellFormed_should_be_fields :
    (Instr.movImm { cond := .al, s := false, rn := 1#4, rd := 0#4, rotate := 0#4, imm8 := 0#8 }).wellFormed = false ∧
    (Instr.mvnReg { cond := .al, s := false, rn := 1#4, rd := 0#4, shiftImm := 0#5, type := .lsl, rm := 0#4 }).wellFormed = false ∧
    (Instr.movRsr { cond := .al, s := false, rn := 1#4, rd := 0#4, rs := 0#4, type := .lsl, rm := 0#4 }).wellFormed = false ∧
    (Instr.cmpImm { cond := .al, rn := 0#4, rdSbz := 15#4, rotate := 0#4, imm8 := 0#8 }).wellFormed = false ∧
    (Instr.tstReg { cond := .al, rn := 0#4, rdSbz := 1#4, shiftImm := 0#5, type := .lsl, rm := 0#4 }).wellFormed = false ∧
    (Instr.teqRsr { cond := .al, rn := 0#4, rdSbz := 1#4, rs := 0#4, type := .lsl, rm := 0#4 }).wellFormed = false ∧
    (Instr.mrs { cond := .al, r := false, sbo := 14#4, rd := 0#4, sbzHi := 0#4, sbzLo := 0#4 }).wellFormed = false ∧
    (Instr.mrs { cond := .al, r := false, sbo := 15#4, rd := 0#4, sbzHi := 1#4, sbzLo := 0#4 }).wellFormed = false ∧
    (Instr.mrs { cond := .al, r := false, sbo := 15#4, rd := 0#4, sbzHi := 0#4, sbzLo := 8#4 }).wellFormed = false ∧
    (Instr.msrReg { cond := .al, r := false, fieldMask := 9#4, sbo := 7#4, sbz := 0#4, rm := 0#4 }).wellFormed = false ∧
    (Instr.msrReg { cond := .al, r := false, fieldMask := 9#4, sbo := 15#4, sbz := 1#4, rm := 0#4 }).wellFormed = false ∧
    (Instr.msrImm { cond := .al, r := false, fieldMask := 8#4, sbo := 0#4, rotate := 0#4, imm8 := 0#8 }).wellFormed = false ∧
    (Instr.bx { cond := .al, sbo := 0xFFE#12, rm := 0#4 }).wellFormed = false ∧
    (Instr.mul { cond := .al, s := false, rd := 0#4, rn := 1#4, rs := 2#4, rm := 3#4 }).wellFormed = false ∧
    (Instr.swp { cond := .al, rn := 0#4, rd := 1#4, sbz := 1#4, rm := 2#4 }).wellFormed = false ∧
    (Instr.strhReg { cond := .al, p := true, u := true, w := false, rn := 0#4, rd := 1#4, sbz := 1#4, rm := 2#4 }).wellFormed = false ∧
    (Instr.tBx false 0#3 1#3).wellFormed = false := by decide

theorem test_wellFormed_registers :
    (Instr.andRsr { cond := .al, s := false, rn := 0#4, rd := 0#4, rs := 15#4, type := .lsl, rm := 0#4 }).wellFormed = false ∧
    (Instr.movRsr { cond := .al, s := false, rn := 0#4, rd := 0#4, rs := 15#4, type := .lsl, rm := 0#4 }).wellFormed = false ∧
    (Instr.cmnRsr { cond := .al, rn := 0#4, rdSbz := 0#4, rs := 15#4, type := .lsl, rm := 0#4 }).wellFormed = false ∧
    (Instr.mrs { cond := .al, r := false, sbo := 15#4, rd := 15#4, sbzHi := 0#4, sbzLo := 0#4 }).wellFormed = false ∧
    (Instr.msrReg { cond := .al, r := false, fieldMask := 9#4, sbo := 15#4, sbz := 0#4, rm := 15#4 }).wellFormed = false ∧
    (Instr.bx { cond := .al, sbo := 0xFFF#12, rm := 15#4 }).wellFormed = false ∧
    (Instr.mla { cond := .al, s := false, rd := 15#4, rn := 1#4, rs := 2#4, rm := 3#4 }).wellFormed = false ∧
    (Instr.mla { cond := .al, s := false, rd := 0#4, rn := 15#4, rs := 2#4, rm := 3#4 }).wellFormed = false ∧
    (Instr.mla { cond := .al, s := false, rd := 0#4, rn := 1#4, rs := 15#4, rm := 3#4 }).wellFormed = false ∧
    (Instr.mla { cond := .al, s := false, rd := 0#4, rn := 1#4, rs := 2#4, rm := 15#4 }).wellFormed = false ∧
    (Instr.mla { cond := .al, s := false, rd := 3#4, rn := 1#4, rs := 2#4, rm := 3#4 }).wellFormed = false ∧
    (Instr.umull { cond := .al, s := false, rdHi := 15#4, rdLo := 1#4, rs := 2#4, rm := 3#4 }).wellFormed = false ∧
    (Instr.umlal { cond := .al, s := false, rdHi := 0#4, rdLo := 15#4, rs := 2#4, rm := 3#4 }).wellFormed = false ∧
    (Instr.smull { cond := .al, s := false, rdHi := 0#4, rdLo := 1#4, rs := 15#4, rm := 3#4 }).wellFormed = false ∧
    (Instr.smlal { cond := .al, s := false, rdHi := 0#4, rdLo := 1#4, rs := 2#4, rm := 15#4 }).wellFormed = false ∧
    (Instr.umull { cond := .al, s := false, rdHi := 1#4, rdLo := 1#4, rs := 2#4, rm := 3#4 }).wellFormed = false ∧
    (Instr.umull { cond := .al, s := false, rdHi := 3#4, rdLo := 1#4, rs := 2#4, rm := 3#4 }).wellFormed = false ∧
    (Instr.umull { cond := .al, s := false, rdHi := 0#4, rdLo := 3#4, rs := 2#4, rm := 3#4 }).wellFormed = false ∧
    (Instr.swp { cond := .al, rn := 15#4, rd := 1#4, sbz := 0#4, rm := 2#4 }).wellFormed = false ∧
    (Instr.swpb { cond := .al, rn := 0#4, rd := 15#4, sbz := 0#4, rm := 2#4 }).wellFormed = false ∧
    (Instr.swp { cond := .al, rn := 0#4, rd := 1#4, sbz := 0#4, rm := 15#4 }).wellFormed = false ∧
    (Instr.swp { cond := .al, rn := 2#4, rd := 1#4, sbz := 0#4, rm := 2#4 }).wellFormed = false ∧
    (Instr.swp { cond := .al, rn := 1#4, rd := 1#4, sbz := 0#4, rm := 2#4 }).wellFormed = false ∧
    (Instr.tAddHi false false 0#3 0#3).wellFormed = false := by decide

theorem test_wellFormed_transfers :
    (Instr.ldrhReg { cond := .al, p := true, u := true, w := false, rn := 0#4, rd := 15#4, sbz := 0#4, rm := 2#4 }).wellFormed = false ∧
    (Instr.ldrhReg { cond := .al, p := true, u := true, w := false, rn := 0#4, rd := 1#4, sbz := 0#4, rm := 15#4 }).wellFormed = false ∧
    (Instr.ldrsbReg { cond := .al, p := false, u := true, w := true, rn := 0#4, rd := 1#4, sbz := 0#4, rm := 2#4 }).wellFormed = false ∧
    (Instr.ldrshReg { cond := .al, p := true, u := true, w := true, rn := 1#4, rd := 1#4, sbz := 0#4, rm := 2#4 }).wellFormed = false ∧
    (Instr.ldrshReg { cond := .al, p := false, u := true, w := false, rn := 2#4, rd := 1#4, sbz := 0#4, rm := 2#4 }).wellFormed = false ∧
    (Instr.strhImm { cond := .al, p := true, u := true, w := false, rn := 0#4, rd := 15#4, immH := 0#4, immL := 2#4 }).wellFormed = false ∧
    (Instr.ldrsbImm { cond := .al, p := false, u := true, w := true, rn := 0#4, rd := 1#4, immH := 0#4, immL := 2#4 }).wellFormed = false ∧
    (Instr.ldrshImm { cond := .al, p := false, u := true, w := false, rn := 15#4, rd := 1#4, immH := 0#4, immL := 2#4 }).wellFormed = false ∧
    (Instr.ldrImmPre { cond := .al, u := true, w := true, rn := 1#4, rd := 1#4, imm12 := 4#12 }).wellFormed = false ∧
    (Instr.strImmPost { cond := .al, u := true, rn := 15#4, rd := 1#4, imm12 := 4#12 }).wellFormed = false ∧
    (Instr.ldrtImm { cond := .al, u := true, rn := 0#4, rd := 15#4, imm12 := 4#12 }).wellFormed = false ∧
    (Instr.ldrbImmPre { cond := .al, u := true, w := false, rn := 0#4, rd := 15#4, imm12 := 4#12 }).wellFormed = false ∧
    (Instr.ldrRegPre { cond := .al, u := true, w := false, rn := 0#4, rd := 1#4, shiftImm := 0#5, type := .lsl, rm := 15#4 }).wellFormed = false ∧
    (Instr.strRegPre { cond := .al, u := true, w := true, rn := 15#4, rd := 1#4, shiftImm := 0#5, type := .lsl, rm := 2#4 }).wellFormed = false ∧
    (Instr.ldrRegPost { cond := .al, u := true, rn := 2#4, rd := 1#4, shiftImm := 0#5, type := .lsl, rm := 2#4 }).wellFormed = false ∧
    (Instr.strtReg { cond := .al, u := true, rn := 0#4, rd := 15#4, shiftImm := 0#5, type := .lsl, rm := 2#4 }).wellFormed = false ∧
    (Instr.strbRegPost { cond := .al, u := true, rn := 0#4, rd := 15#4, shiftImm := 0#5, type := .lsl, rm := 2#4 }).wellFormed = false := by
  decide

theorem test_wellFormed_lists :
    (Instr.ldm { cond := .al, p := false, u := true, w := false, rn := 0#4, list := 0#16 }).wellFormed = false ∧
    (Instr.ldm { cond := .al, p := false, u := true, w := false, rn := 15#4, list := 1#16 }).wellFormed = false ∧
    (Instr.ldm { cond := .al, p := false, u := true, w := true, rn := 0#4, list := 3#16 }).wellFormed = false ∧
    (Instr.stm { cond := .al, p := false, u := true, w := false, rn := 0#4, list := 0#16 }).wellFormed = false ∧
    (Instr.stm { cond := .al, p := false, u := true, w := false, rn := 15#4, list := 1#16 }).wellFormed = false ∧
    (Instr.stm { cond := .al, p := false, u := true, w := true, rn := 1#4, list := 3#16 }).wellFormed = false ∧
    (Instr.stm { cond := .al, p := false, u := true, w := true, rn := 0#4, list := 3#16 }).wellFormed = true ∧
    (Instr.stmUser { cond := .al, p := false, u := true, w := false, rn := 0#4, list := 0#16 }).wellFormed = false ∧
    (Instr.stmUser { cond := .al, p := false, u := true, w := false, rn := 15#4, list := 1#16 }).wellFormed = false ∧
    (Instr.stmUser { cond := .al, p := false, u := true, w := true, rn := 0#4, list := 2#16 }).wellFormed = false ∧
    (Instr.ldmUser { cond := .al, p := false, u := true, w := false, rn := 0#4, list := 0#15 }).wellFormed = false ∧
    (Instr.ldmUser { cond := .al, p := false, u := true, w := false, rn := 15#4, list := 1#15 }).wellFormed = false ∧
    (Instr.ldmUser { cond := .al, p := false, u := true, w := true, rn := 0#4, list := 2#15 }).wellFormed = false ∧
    (Instr.ldmReturn { cond := .al, p := false, u := true, w := false, rn := 15#4, list := 1#15 }).wellFormed = false ∧
    (Instr.ldmReturn { cond := .al, p := false, u := true, w := true, rn := 0#4, list := 1#15 }).wellFormed = false ∧
    (Instr.ldmReturn { cond := .al, p := false, u := true, w := true, rn := 13#4, list := 1#15 }).wellFormed = true ∧
    (Instr.tPush false 0#8).wellFormed = false ∧ (Instr.tPop false 0#8).wellFormed = false ∧
    (Instr.tPush true 0#8).wellFormed = true ∧ (Instr.tStmia 0#3 0#8).wellFormed = false ∧
    (Instr.tStmia 1#3 3#8).wellFormed = false ∧ (Instr.tStmia 1#3 6#8).wellFormed = true ∧
    (Instr.tLdmia 0#3 0#8).wellFormed = false ∧ (Instr.tLdmia 1#3 2#8).wellFormed = false := by decide

/-! ## Decoding: a word of every row, written field by field from the formats of spec/30_encoding.md -/

theorem test_decode_arm_and_to_sub :
    decode (.arm 0b0000_0010000_0_0111_1111_1000_01000001#32) = .ok (.andImm { cond := .eq, s := false, rn := 7#4, rd := 15#4, rotate := 8#4, imm8 := 0x41#8 }) ∧
    decode (.arm 0b0001_0000000_1_0110_1110_10111_01_0_1000#32) = .ok (.andReg { cond := .ne, s := true, rn := 6#4, rd := 14#4, shiftImm := 23#5, type := .lsr, rm := 8#4 }) ∧
    decode (.arm 0b0010_0000000_0_0100_1101_0101_0_10_1_0111#32) = .ok (.andRsr { cond := .cs, s := false, rn := 4#4, rd := 13#4, rs := 5#4, type := .asr, rm := 7#4 }) ∧
    decode (.arm 0b0011_0010001_1_0011_1100_0100_00011101#32) = .ok (.eorImm { cond := .cc, s := true, rn := 3#4, rd := 12#4, rotate := 4#4, imm8 := 0x1d#8 }) ∧
    decode (.arm 0b0100_0000001_0_0010_1010_10011_00_0_0100#32) = .ok (.eorReg { cond := .mi, s := false, rn := 2#4, rd := 10#4, shiftImm := 19#5, type := .lsl, rm := 4#4 }) ∧
    decode (.arm 0b0101_0000001_1_0001_1001_0010_0_01_1_0011#32) = .ok (.eorRsr { cond := .pl, s := true, rn := 1#4, rd := 9#4, rs := 2#4, type := .lsr, rm := 3#4 }) ∧
    decode (.arm 0b0110_0010010_0_1111_1000_0001_11111001#32) = .ok (.subImm { cond := .vs, s := false, rn := 15#4, rd := 8#4, rotate := 1#4, imm8 := 0xf9#8 }) ∧
    decode (.arm 0b0111_0000010_1_1110_0110_01111_11_0_0001#32) = .ok (.subReg { cond := .vc, s := true, rn := 14#4, rd := 6#4, shiftImm := 15#5, type := .ror, rm := 1#4 }) ∧
    decode (.arm 0b1000_0000010_0_1101_0101_1110_0_00_1_1111#32) = .ok (.subRsr { cond := .hi, s := false, rn := 13#4, rd := 5#4, rs := 14#4, type := .lsl, rm := 15#4 }) := by decide

theorem test_decode_arm_rsb_to_adc :
    decode (.arm 0b1001_0010011_1_1011_0100_1100_11010101#32) = .ok (.rsbImm { cond := .ls, s := true, rn := 11#4, rd := 4#4, rotate := 12#4, imm8 := 0xd5#8 }) ∧
    decode (.arm 0b1010_0000011_0_1010_0011_01011_10_0_1100#32) = .ok (.rsbReg { cond := .ge, s := false, rn := 10#4, rd := 3#4, shiftImm := 11#5, type := .asr, rm := 12#4 }) ∧
    decode (.arm 0b1011_0000011_1_1001_0001_1010_0_11_1_1011#32) = .ok (.rsbRsr { cond := .lt, s := true, rn := 9#4, rd := 1#4, rs := 10#4, type := .ror, rm := 11#4 }) ∧
    decode (.arm 0b1100_0010100_0_0111_0001_1001_10110001#32) = .ok (.addImm { cond := .gt, s := false, rn := 7#4, rd := 1#4, rotate := 9#4, imm8 := 0xb1#8 }) ∧
    decode (.arm 0b1101_0000100_1_0110_1111_00111_01_0_1001#32) = .ok (.addReg { cond := .le, s := true, rn := 6#4, rd := 15#4, shiftImm := 7#5, type := .lsr, rm := 9#4 }) ∧
    decode (.arm 0b1110_0000100_0_0101_1101_0110_0_10_1_0111#32) = .ok (.addRsr { cond := .al, s := false, rn := 5#4, rd := 13#4, rs := 6#4, type := .asr, rm := 7#4 }) ∧
    decode (.arm 0b1111_0010101_1_0100_1100_0101_10001101#32) = .ok (.adcImm { cond := .nv, s := true, rn := 4#4, rd := 12#4, rotate := 5#4, imm8 := 0x8d#8 }) ∧
    decode (.arm 0b0000_0000101_0_0010_1011_00100_00_0_0101#32) = .ok (.adcReg { cond := .eq, s := false, rn := 2#4, rd := 11#4, shiftImm := 4#5, type := .lsl, rm := 5#4 }) ∧
    decode (.arm 0b0001_0000101_1_0001_1010_0010_0_01_1_0011#32) = .ok (.adcRsr { cond := .ne, s := true, rn := 1#4, rd := 10#4, rs := 2#4, type := .lsr, rm := 3#4 }) := by decide

theorem test_decode_arm_sbc_rsc :
    decode (.arm 0b0010_0010110_0_0001_1000_0001_01101010#32) = .ok (.sbcImm { cond := .cs, s := false, rn := 1#4, rd := 8#4, rotate := 1#4, imm8 := 0x6a#8 }) ∧
    decode (.arm 0b0011_0000110_1_1110_0111_00001_11_0_0001#32) = .ok (.sbcReg { cond := .cc, s := true, rn := 14#4, rd := 7#4, shiftImm := 1#5, type := .ror, rm := 1#4 }) ∧
    decode (.arm 0b0100_0000110_0_1101_0110_1110_0_00_1_0001#32) = .ok (.sbcRsr { cond := .mi, s := false, rn := 13#4, rd := 6#4, rs := 14#4, type := .lsl, rm := 1#4 }) ∧
    decode (.arm 0b0101_0010111_1_1100_0101_1101_01000110#32) = .ok (.rscImm { cond := .pl, s := true, rn := 12#4, rd := 5#4, rotate := 13#4, imm8 := 0x46#8 }) ∧
    decode (.arm 0b0110_0000111_0_1011_0011_11100_10_0_1101#32) = .ok (.rscReg { cond := .vs, s := false, rn := 11#4, rd := 3#4, shiftImm := 28#5, type := .asr, rm := 13#4 }) ∧
    decode (.arm 0b0111_0000111_1_1001_0010_1011_0_11_1_1100#32) = .ok (.rscRsr { cond := .vc, s := true, rn := 9#4, rd := 2#4, rs := 11#4, type := .ror, rm := 12#4 }) := by decide

theorem test_decode_arm_tst_to_cmn :
    decode (.arm 0b1000_00110001_1111_0000_0001_10111001#32) = .ok (.tstImm { cond := .hi, rn := 15#4, rdSbz := 0#4, rotate := 1#4, imm8 := 0xb9#8 }) ∧
    decode (.arm 0b1001_00010001_1110_0000_01111_01_0_0001#32) = .ok (.tstReg { cond := .ls, rn := 14#4, rdSbz := 0#4, shiftImm := 15#5, type := .lsr, rm := 1#4 }) ∧
    decode (.arm 0b1010_00010001_1101_0000_1110_0_10_1_1111#32) = .ok (.tstRsr { cond := .ge, rn := 13#4, rdSbz := 0#4, rs := 14#4, type := .asr, rm := 15#4 }) ∧
    decode (.arm 0b1011_00110011_1100_0000_1101_10010101#32) = .ok (.teqImm { cond := .lt, rn := 12#4, rdSbz := 0#4, rotate := 13#4, imm8 := 0x95#8 }) ∧
    decode (.arm 0b1100_00010011_1010_0000_01100_00_0_1101#32) = .ok (.teqReg { cond := .gt, rn := 10#4, rdSbz := 0#4, shiftImm := 12#5, type := .lsl, rm := 13#4 }) ∧
    decode (.arm 0b1101_00010011_1001_0000_1010_0_01_1_1011#32) = .ok (.teqRsr { cond := .le, rn := 9#4, rdSbz := 0#4, rs := 10#4, type := .lsr, rm := 11#4 }) ∧
    decode (.arm 0b1110_00110101_1000_0000_1001_01110010#32) = .ok (.cmpImm { cond := .al, rn := 8#4, rdSbz := 0#4, rotate := 9#4, imm8 := 0x72#8 }) ∧
    decode (.arm 0b1111_00010101_0111_0000_01000_11_0_1001#32) = .ok (.cmpReg { cond := .nv, rn := 7#4, rdSbz := 0#4, shiftImm := 8#5, type := .ror, rm := 9#4 }) ∧
    decode (.arm 0b0000_00010101_0101_0000_0110_0_00_1_1000#32) = .ok (.cmpRsr { cond := .eq, rn := 5#4, rdSbz := 0#4, rs := 6#4, type := .lsl, rm := 8#4 }) ∧
    decode (.arm 0b0001_00110111_0100_0000_0101_01001110#32) = .ok (.cmnImm { cond := .ne, rn := 4#4, rdSbz := 0#4, rotate := 5#4, imm8 := 0x4e#8 }) ∧
    decode (.arm 0b0010_00010111_0011_0000_00100_10_0_0101#32) = .ok (.cmnReg { cond := .cs, rn := 3#4, rdSbz := 0#4, shiftImm := 4#5, type := .asr, rm := 5#4 }) ∧
    decode (.arm 0b0011_00010111_0001_0000_0011_0_11_1_0100#32) = .ok (.cmnRsr { cond := .cc, rn := 1#4, rdSbz := 0#4, rs := 3#4, type := .ror, rm := 4#4 }) := by decide

theorem test_decode_arm_orr_mov :
    decode (.arm 0b0100_0011100_0_1001_0001_1010_10010010#32) = .ok (.orrImm { cond := .mi, s := false, rn := 9#4, rd := 1#4, rotate := 10#4, imm8 := 0x92#8 }) ∧
    decode (.arm 0b0101_0001100_1_0111_0001_01001_01_0_1010#32) = .ok (.orrReg { cond := .pl, s := true, rn := 7#4, rd := 1#4, shiftImm := 9#5, type := .lsr, rm := 10#4 }) ∧
    decode (.arm 0b0110_0001100_0_0110_1111_0111_0_10_1_1001#32) = .ok (.orrRsr { cond := .vs, s := false, rn := 6#4, rd := 15#4, rs := 7#4, type := .asr, rm := 9#4 }) ∧
    decode (.arm 0b0111_0011101_1_0000_1101_0110_01101111#32) = .ok (.movImm { cond := .vc, s := true, rn := 0#4, rd := 13#4, rotate := 6#4, imm8 := 0x6f#8 }) ∧
    decode (.arm 0b1000_0001101_0_0000_1100_00101_00_0_0110#32) = .ok (.movReg { cond := .hi, s := false, rn := 0#4, rd := 12#4, shiftImm := 5#5, type := .lsl, rm := 6#4 }) ∧
    decode (.arm 0b1001_0001101_1_0000_1011_0011_0_01_1_0101#32) = .ok (.movRsr { cond := .ls, s := true, rn := 0#4, rd := 11#4, rs := 3#4, type := .lsr, rm := 5#4 }) := by decide

theorem test_decode_arm_bic_mvn :
    decode (.arm 0b1010_0011110_0_0001_1010_0010_01001011#32) = .ok (.bicImm { cond := .ge, s := false, rn := 1#4, rd := 10#4, rotate := 2#4, imm8 := 0x4b#8 }) ∧
    decode (.arm 0b1011_0001110_1_0001_1000_00001_11_0_0010#32) = .ok (.bicReg { cond := .lt, s := true, rn := 1#4, rd := 8#4, shiftImm := 1#5, type := .ror, rm := 2#4 }) ∧
    decode (.arm 0b1100_0001110_0_1110_0111_0001_0_00_1_0001#32) = .ok (.bicRsr { cond := .gt, s := false, rn := 14#4, rd := 7#4, rs := 1#4, type := .lsl, rm := 1#4 }) ∧
    decode (.arm 0b1101_0011111_1_0000_0110_1110_00100111#32) = .ok (.mvnImm { cond := .le, s := true, rn := 0#4, rd := 6#4, rotate := 14#4, imm8 := 0x27#8 }) ∧
    decode (.arm 0b1110_0001111_0_0000_0100_11101_10_0_1110#32) = .ok (.mvnReg { cond := .al, s := false, rn := 0#4, rd := 4#4, shiftImm := 29#5, type := .asr, rm := 14#4 }) ∧
    decode (.arm 0b1111_0001111_1_0000_0011_1100_0_11_1_1101#32) = .ok (.mvnRsr { cond := .nv, s := true, rn := 0#4, rd := 3#4, rs := 12#4, type := .ror, rm := 13#4 }) := by decide

theorem test_decode_arm_status_and_bx :
    decode (.arm 0b0000_00010_0_00_1111_0010_0000_0000_0000#32) = .ok (.mrs { cond := .eq, r := false, sbo := 15#4, rd := 2#4, sbzHi := 0#4, sbzLo := 0#4 }) ∧
    decode (.arm 0b0001_00010_1_10_1000_1111_0000_0000_0010#32) = .ok (.msrReg { cond := .ne, r := true, fieldMask := 8#4, sbo := 15#4, sbz := 0#4, rm := 2#4 }) ∧
    decode (.arm 0b0010_00110_0_10_0111_1111_1000_01000001#32) = .ok (.msrImm { cond := .cs, r := false, fieldMask := 7#4, sbo := 15#4, rotate := 8#4, imm8 := 0x41#8 }) ∧
    decode (.arm 0b0011_00010010_111111111111_0001_0101#32) = .ok (.bx { cond := .cc, sbo := 0xfff#12, rm := 5#4 }) := by decide

theorem test_decode_arm_multiply_and_swap :
    decode (.arm 0b0100_0000000_0_0100_0000_0101_1001_1110#32) = .ok (.mul { cond := .mi, s := false, rd := 4#4, rn := 0#4, rs := 5#4, rm := 14#4 }) ∧
    decode (.arm 0b0101_0000001_1_0011_1100_0100_1001_1101#32) = .ok (.mla { cond := .pl, s := true, rd := 3#4, rn := 12#4, rs := 4#4, rm := 13#4 }) ∧
    decode (.arm 0b0110_0000100_0_0010_1010_0011_1001_1011#32) = .ok (.umull { cond := .vs, s := false, rdHi := 2#4, rdLo := 10#4, rs := 3#4, rm := 11#4 }) ∧
    decode (.arm 0b0111_0000101_1_0001_1001_0010_1001_1010#32) = .ok (.umlal { cond := .vc, s := true, rdHi := 1#4, rdLo := 9#4, rs := 2#4, rm := 10#4 }) ∧
    decode (.arm 0b1000_0000110_0_1111_1000_0001_1001_1001#32) = .ok (.smull { cond := .hi, s := false, rdHi := 15#4, rdLo := 8#4, rs := 1#4, rm := 9#4 }) ∧
    decode (.arm 0b1001_0000111_1_1110_0110_1111_1001_1000#32) = .ok (.smlal { cond := .ls, s := true, rdHi := 14#4, rdLo := 6#4, rs := 15#4, rm := 8#4 }) ∧
    decode (.arm 0b1010_00010000_0100_1101_0000_1001_1110#32) = .ok (.swp { cond := .ge, rn := 4#4, rd := 13#4, sbz := 0#4, rm := 14#4 }) ∧
    decode (.arm 0b1011_00010100_0011_1011_0000_1001_1100#32) = .ok (.swpb { cond := .lt, rn := 3#4, rd := 11#4, sbz := 0#4, rm := 12#4 }) := by decide

theorem test_decode_arm_halfword :
    decode (.arm 0b1100_000_0_1_0_0_0_1011_0100_0000_1011_0101#32) = .ok (.strhReg { cond := .gt, p := false, u := true, w := false, rn := 11#4, rd := 4#4, sbz := 0#4, rm := 5#4 }) ∧
    decode (.arm 0b1101_000_1_0_1_1_0_1010_0010_1011_1011_0100#32) = .ok (.strhImm { cond := .le, p := true, u := false, w := true, rn := 10#4, rd := 2#4, immH := 11#4, immL := 4#4 }) ∧
    decode (.arm 0b1110_000_0_1_0_0_1_1001_0001_0000_1011_0010#32) = .ok (.ldrhReg { cond := .al, p := false, u := true, w := false, rn := 9#4, rd := 1#4, sbz := 0#4, rm := 2#4 }) ∧
    decode (.arm 0b1111_000_1_0_1_1_1_0111_0001_1000_1011_0001#32) = .ok (.ldrhImm { cond := .nv, p := true, u := false, w := true, rn := 7#4, rd := 1#4, immH := 8#4, immL := 1#4 }) ∧
    decode (.arm 0b0000_000_0_1_0_0_1_0110_1111_0000_1101_0001#32) = .ok (.ldrsbReg { cond := .eq, p := false, u := true, w := false, rn := 6#4, rd := 15#4, sbz := 0#4, rm := 1#4 }) ∧
    decode (.arm 0b0001_000_1_0_1_1_1_0101_1101_0110_1101_1111#32) = .ok (.ldrsbImm { cond := .ne, p := true, u := false, w := true, rn := 5#4, rd := 13#4, immH := 6#4, immL := 15#4 }) ∧
    decode (.arm 0b0010_000_0_1_0_0_1_0011_1100_0000_1111_1101#32) = .ok (.ldrshReg { cond := .cs, p := false, u := true, w := false, rn := 3#4, rd := 12#4, sbz := 0#4, rm := 13#4 }) ∧
    decode (.arm 0b0011_000_1_0_1_1_1_0010_1011_0011_1111_1100#32) = .ok (.ldrshImm { cond := .cc, p := true, u := false, w := true, rn := 2#4, rd := 11#4, immH := 3#4, immL := 12#4 }) := by decide

theorem test_decode_arm_immediate_offset :
    decode (.arm 0b0100_0101_0_0_1_1_1000_0001_001001101001#32) = .ok (.ldrImmPre { cond := .mi, u := false, w := true, rn := 8#4, rd := 1#4, imm12 := 0x269#12 }) ∧
    decode (.arm 0b0101_0100_1_001_1110_0111_000110100000#32) = .ok (.ldrImmPost { cond := .pl, u := true, rn := 14#4, rd := 7#4, imm12 := 0x1a0#12 }) ∧
    decode (.arm 0b0110_0100_0_011_1101_0110_010000111110#32) = .ok (.ldrtImm { cond := .vs, u := false, rn := 13#4, rd := 6#4, imm12 := 0x43e#12 }) ∧
    decode (.arm 0b0111_0101_1_0_0_0_0100_1101_101001000110#32) = .ok (.strImmPre { cond := .vc, u := true, w := false, rn := 4#4, rd := 13#4, imm12 := 0xa46#12 }) ∧
    decode (.arm 0b1000_0100_0_000_1011_0011_100101111100#32) = .ok (.strImmPost { cond := .hi, u := false, rn := 11#4, rd := 3#4, imm12 := 0x97c#12 }) ∧
    decode (.arm 0b1001_0100_1_010_1001_0010_110000011010#32) = .ok (.strtImm { cond := .ls, u := true, rn := 9#4, rd := 2#4, imm12 := 0xc1a#12 }) ∧
    decode (.arm 0b1010_0101_0_1_1_1_0001_1001_001000100010#32) = .ok (.ldrbImmPre { cond := .ge, u := false, w := true, rn := 1#4, rd := 9#4, imm12 := 0x222#12 }) ∧
    decode (.arm 0b1011_0100_1_101_0111_1111_000101011000#32) = .ok (.ldrbImmPost { cond := .lt, u := true, rn := 7#4, rd := 15#4, imm12 := 0x158#12 }) ∧
    decode (.arm 0b1100_0100_0_111_0101_1110_001111110111#32) = .ok (.ldrbtImm { cond := .gt, u := false, rn := 5#4, rd := 14#4, imm12 := 0x3f7#12 }) ∧
    decode (.arm 0b1101_0101_1_1_0_0_1101_0101_100111111110#32) = .ok (.strbImmPre { cond := .le, u := true, w := false, rn := 13#4, rd := 5#4, imm12 := 0x9fe#12 }) ∧
    decode (.arm 0b1110_0100_0_100_0011_1011_100100110100#32) = .ok (.strbImmPost { cond := .al, u := false, rn := 3#4, rd := 11#4, imm12 := 0x934#12 }) ∧
    decode (.arm 0b1111_0100_1_110_0010_1010_101111010011#32) = .ok (.strbtImm { cond := .nv, u := true, rn := 2#4, rd := 10#4, imm12 := 0xbd3#12 }) := by decide

theorem test_decode_arm_register_offset :
    decode (.arm 0b0000_0111_0_0_1_1_1001_0010_11010_00_0_1011#32) = .ok (.ldrRegPre { cond := .eq, u := false, w := true, rn := 9#4, rd := 2#4, shiftImm := 26#5, type := .lsl, rm := 11#4 }) ∧
    decode (.arm 0b0001_0110_1_001_1111_1000_10000_01_0_0001#32) = .ok (.ldrRegPost { cond := .ne, u := true, rn := 15#4, rd := 8#4, shiftImm := 16#5, type := .lsr, rm := 1#4 }) ∧
    decode (.arm 0b0010_0110_0_011_1110_0110_01111_10_0_0001#32) = .ok (.ldrtReg { cond := .cs, u := false, rn := 14#4, rd := 6#4, shiftImm := 15#5, type := .asr, rm := 1#4 }) ∧
    decode (.arm 0b0011_0111_1_0_0_0_0101_1110_10110_11_0_0111#32) = .ok (.strRegPre { cond := .cc, u := true, w := false, rn := 5#4, rd := 14#4, shiftImm := 22#5, type := .ror, rm := 7#4 }) ∧
    decode (.arm 0b0100_0110_0_000_1011_0100_01100_00_0_1110#32) = .ok (.strRegPost { cond := .mi, u := false, rn := 11#4, rd := 4#4, shiftImm := 12#5, type := .lsl, rm := 14#4 }) ∧
    decode (.arm 0b0101_0110_1_010_1010_0011_01011_01_0_1100#32) = .ok (.strtReg { cond := .pl, u := true, rn := 10#4, rd := 3#4, shiftImm := 11#5, type := .lsr, rm := 12#4 }) ∧
    decode (.arm 0b0110_0111_0_1_1_1_0001_1010_10010_10_0_0100#32) = .ok (.ldrbRegPre { cond := .vs, u := false, w := true, rn := 1#4, rd := 10#4, shiftImm := 18#5, type := .asr, rm := 4#4 }) ∧
    decode (.arm 0b0111_0110_1_101_0111_0001_01001_11_0_1010#32) = .ok (.ldrbRegPost { cond := .vc, u := true, rn := 7#4, rd := 1#4, shiftImm := 9#5, type := .ror, rm := 10#4 }) ∧
    decode (.arm 0b1000_0110_0_111_0110_1111_00111_00_0_1000#32) = .ok (.ldrbtReg { cond := .hi, u := false, rn := 6#4, rd := 15#4, shiftImm := 7#5, type := .lsl, rm := 8#4 }) ∧
    decode (.arm 0b1001_0111_1_1_0_0_1101_0110_01111_01_0_0001#32) = .ok (.strbRegPre { cond := .ls, u := true, w := false, rn := 13#4, rd := 6#4, shiftImm := 15#5, type := .lsr, rm := 1#4 }) ∧
    decode (.arm 0b1010_0110_0_100_0100_1100_00101_10_0_0110#32) = .ok (.strbRegPost { cond := .ge, u := false, rn := 4#4, rd := 12#4, shiftImm := 5#5, type := .asr, rm := 6#4 }) ∧
    decode (.arm 0b1011_0110_1_110_0010_1011_00011_11_0_0101#32) = .ok (.strbtReg { cond := .lt, u := true, rn := 2#4, rd := 11#4, shiftImm := 3#5, type := .ror, rm := 5#4 }) := by decide

theorem test_decode_arm_block_and_branch :
    decode (.arm 0b1100_100_0_1_0_0_1_0010_0110000101001011#32) = .ok (.ldm { cond := .gt, p := false, u := true, w := false, rn := 2#4, list := 0x614b#16 }) ∧
    decode (.arm 0b1101_100_1_0_1_1_1_0001_0_000001111101001#32) = .ok (.ldmUser { cond := .le, p := true, u := false, w := true, rn := 1#4, list := 0x3e9#15 }) ∧
    decode (.arm 0b1110_100_0_1_1_0_1_0001_1_010011010001000#32) = .ok (.ldmReturn { cond := .al, p := false, u := true, w := false, rn := 1#4, list := 0x2688#15 }) ∧
    decode (.arm 0b1111_100_1_0_0_1_0_1110_1100100100100111#32) = .ok (.stm { cond := .nv, p := true, u := false, w := true, rn := 14#4, list := 0xc927#16 }) ∧
    decode (.arm 0b0000_100_0_1_1_0_0_1101_1110101111000110#32) = .ok (.stmUser { cond := .eq, p := false, u := true, w := false, rn := 13#4, list := 0xebc6#16 }) ∧
    decode (.arm 0b0001_1010_110001010100000011000010#32) = .ok (.b { cond := .ne, offset24 := 0xc540c2#24 }) ∧
    decode (.arm 0b0010_1011_011000010110001101100001#32) = .ok (.bl { cond := .cs, offset24 := 0x616361#24 }) := by decide

theorem test_decode_arm_coprocessor_and_exceptions :
    decode (.arm 0b0011_110_1_0_1_0_0_0010_1010_0011_11011100#32) = .ok (.stc { cond := .cc, p := true, u := false, n := true, w := false, rn := 2#4, crd := 10#4, cpNum := 3#4, offset8 := 0xdc#8 }) ∧
    decode (.arm 0b0100_110_0_1_0_1_1_0001_1001_0010_01111010#32) = .ok (.ldc { cond := .mi, p := false, u := true, n := false, w := true, rn := 1#4, crd := 9#4, cpNum := 2#4, offset8 := 0x7a#8 }) ∧
    decode (.arm 0b0101_1110_1101_0101_1110_0111_111_0_1000#32) = .ok (.cdp { cond := .pl, cpOpc := 13#4, crn := 5#4, crd := 14#4, cpNum := 7#4, cpInfo := 7#3, crm := 8#4 }) ∧
    decode (.arm 0b0110_1110_100_0_0100_1101_0101_110_1_0111#32) = .ok (.mcr { cond := .vs, cpOpc := 4#3, crn := 4#4, rd := 13#4, cpNum := 5#4, cpInfo := 6#3, crm := 7#4 }) ∧
    decode (.arm 0b0111_1110_010_1_0011_1011_0100_101_1_0101#32) = .ok (.mrc { cond := .vc, cpOpc := 2#3, crn := 3#4, rd := 11#4, cpNum := 4#4, cpInfo := 5#3, crm := 5#4 }) ∧
    decode (.arm 0b1000_1111_000010100011001100011001#32) = .ok (.swi { cond := .hi, comment24 := 0xa3319#24 }) ∧
    decode (.arm 0b1001_011_01100101010110111000_1_0001#32) = .ok (.und { cond := .ls, anyHi := 0x655b8#20, anyLo := 1#4 }) := by decide

theorem test_decode_thumb_formats_1_to_3 :
    decode (.thumb 0b00000_01110_110_111#16) = .ok (.tLslImm 14#5 6#3 7#3) ∧
    decode (.thumb 0b00001_01101_101_110#16) = .ok (.tLsrImm 13#5 5#3 6#3) ∧
    decode (.thumb 0b00010_01011_100_100#16) = .ok (.tAsrImm 11#5 4#3 4#3) ∧
    decode (.thumb 0b0001100_010_011_011#16) = .ok (.tAddReg 2#3 3#3 3#3) ∧
    decode (.thumb 0b0001101_001_001_010#16) = .ok (.tSubReg 1#3 1#3 2#3) ∧
    decode (.thumb 0b0001110_111_001_001#16) = .ok (.tAddImm3 7#3 1#3 1#3) ∧
    decode (.thumb 0b0001111_110_111_111#16) = .ok (.tSubImm3 6#3 7#3 7#3) ∧
    decode (.thumb 0b00100_101_10101101#16) = .ok (.tMovImm8 5#3 0xad#8) ∧
    decode (.thumb 0b00101_100_01001100#16) = .ok (.tCmpImm8 4#3 0x4c#8) ∧
    decode (.thumb 0b00110_010_11101011#16) = .ok (.tAddImm8 2#3 0xeb#8) ∧
    decode (.thumb 0b00111_001_10001010#16) = .ok (.tSubImm8 1#3 0x8a#8) := by decide

theorem test_decode_thumb_format_4 :
    decode (.thumb 0b0100000000_001_001#16) = .ok (.tAnd 1#3 1#3) ∧
    decode (.thumb 0b0100000001_110_111#16) = .ok (.tEor 6#3 7#3) ∧
    decode (.thumb 0b0100000010_101_110#16) = .ok (.tLsl 5#3 6#3) ∧
    decode (.thumb 0b0100000011_100_100#16) = .ok (.tLsr 4#3 4#3) ∧
    decode (.thumb 0b0100000100_011_011#16) = .ok (.tAsr 3#3 3#3) ∧
    decode (.thumb 0b0100000101_001_010#16) = .ok (.tAdc 1#3 2#3) ∧
    decode (.thumb 0b0100000110_001_001#16) = .ok (.tSbc 1#3 1#3) ∧
    decode (.thumb 0b0100000111_111_111#16) = .ok (.tRor 7#3 7#3) ∧
    decode (.thumb 0b0100001000_101_110#16) = .ok (.tTst 5#3 6#3) ∧
    decode (.thumb 0b0100001001_100_101#16) = .ok (.tNeg 4#3 5#3) ∧
    decode (.thumb 0b0100001010_011_100#16) = .ok (.tCmp 3#3 4#3) ∧
    decode (.thumb 0b0100001011_010_010#16) = .ok (.tCmn 2#3 2#3) ∧
    decode (.thumb 0b0100001100_001_001#16) = .ok (.tOrr 1#3 1#3) ∧
    decode (.thumb 0b0100001101_111_001#16) = .ok (.tMul 7#3 1#3) ∧
    decode (.thumb 0b0100001110_110_110#16) = .ok (.tBic 6#3 6#3) ∧
    decode (.thumb 0b0100001111_101_101#16) = .ok (.tMvn 5#3 5#3) := by decide

theorem test_decode_thumb_format_5 :
    decode (.thumb 0b01000100_0_1_100_101#16) = .ok (.tAddHi false true 4#3 5#3) ∧
    decode (.thumb 0b01000101_1_0_011_100#16) = .ok (.tCmpHi true false 3#3 4#3) ∧
    decode (.thumb 0b01000110_0_1_010_010#16) = .ok (.tMovHi false true 2#3 2#3) ∧
    decode (.thumb 0b010001110_1_001_000#16) = .ok (.tBx true 1#3 0#3) := by decide

theorem test_decode_thumb_formats_6_to_11 :
    decode (.thumb 0b01001_110_10001111#16) = .ok (.tLdrPc 6#3 0x8f#8) ∧
    decode (.thumb 0b0101000_101_101_110#16) = .ok (.tStrReg 5#3 5#3 6#3) ∧
    decode (.thumb 0b0101010_100_100_101#16) = .ok (.tStrbReg 4#3 4#3 5#3) ∧
    decode (.thumb 0b0101100_010_011_011#16) = .ok (.tLdrReg 2#3 3#3 3#3) ∧
    decode (.thumb 0b0101110_001_010_010#16) = .ok (.tLdrbReg 1#3 2#3 2#3) ∧
    decode (.thumb 0b0101001_001_001_001#16) = .ok (.tStrhReg 1#3 1#3 1#3) ∧
    decode (.thumb 0b0101011_110_111_001#16) = .ok (.tLdsbReg 6#3 7#3 1#3) ∧
    decode (.thumb 0b0101101_101_110_110#16) = .ok (.tLdrhReg 5#3 6#3 6#3) ∧
    decode (.thumb 0b0101111_100_100_101#16) = .ok (.tLdshReg 4#3 4#3 5#3) ∧
    decode (.thumb 0b01100_11011_011_100#16) = .ok (.tStrImm 27#5 3#3 4#3) ∧
    decode (.thumb 0b01101_11001_010_010#16) = .ok (.tLdrImm 25#5 2#3 2#3) ∧
    decode (.thumb 0b01110_11000_001_001#16) = .ok (.tStrbImm 24#5 1#3 1#3) ∧
    decode (.thumb 0b01111_10111_111_001#16) = .ok (.tLdrbImm 23#5 7#3 1#3) ∧
    decode (.thumb 0b10000_10101_110_111#16) = .ok (.tStrhImm 21#5 6#3 7#3) ∧
    decode (.thumb 0b10001_10100_101_101#16) = .ok (.tLdrhImm 20#5 5#3 5#3) ∧
    decode (.thumb 0b10010_011_11011011#16) = .ok (.tStrSp 3#3 0xdb#8) ∧
    decode (.thumb 0b10011_010_01111010#16) = .ok (.tLdrSp 2#3 0x7a#8) := by decide

theorem test_decode_thumb_formats_12_to_15 :
    decode (.thumb 0b10100_001_00011001#16) = .ok (.tAddPc 1#3 0x19#8) ∧
    decode (.thumb 0b10101_111_10111000#16) = .ok (.tAddSp 7#3 0xb8#8) ∧
    decode (.thumb 0b101100000_1101110#16) = .ok (.tIncSp 0x6e#7) ∧
    decode (.thumb 0b101100001_0001100#16) = .ok (.tDecSp 0xc#7) ∧
    decode (.thumb 0b1011010_1_10010100#16) = .ok (.tPush true 0x94#8) ∧
    decode (.thumb 0b1011110_0_00110011#16) = .ok (.tPop false 0x33#8) ∧
    decode (.thumb 0b11000_001_11010001#16) = .ok (.tStmia 1#3 0xd1#8) ∧
    decode (.thumb 0b11001_111_01110000#16) = .ok (.tLdmia 7#3 0x70#8) := by decide

theorem test_decode_thumb_formats_16_to_19 :
    decode (.thumb 0b11010000_10100110#16) = .ok (.tBeq 0xa6#8) ∧
    decode (.thumb 0b11010001_01000101#16) = .ok (.tBne 0x45#8) ∧
    decode (.thumb 0b11010010_11100100#16) = .ok (.tBcs 0xe4#8) ∧
    decode (.thumb 0b11010011_10000010#16) = .ok (.tBcc 0x82#8) ∧
    decode (.thumb 0b11010100_00100001#16) = .ok (.tBmi 0x21#8) ∧
    decode (.thumb 0b11010101_11000000#16) = .ok (.tBpl 0xc0#8) ∧
    decode (.thumb 0b11010110_01011110#16) = .ok (.tBvs 0x5e#8) ∧
    decode (.thumb 0b11010111_11111101#16) = .ok (.tBvc 0xfd#8) ∧
    decode (.thumb 0b11011000_10011100#16) = .ok (.tBhi 0x9c#8) ∧
    decode (.thumb 0b11011001_00111011#16) = .ok (.tBls 0x3b#8) ∧
    decode (.thumb 0b11011010_11011001#16) = .ok (.tBge 0xd9#8) ∧
    decode (.thumb 0b11011011_01111000#16) = .ok (.tBlt 0x78#8) ∧
    decode (.thumb 0b11011100_00010111#16) = .ok (.tBgt 0x17#8) ∧
    decode (.thumb 0b11011101_10110101#16) = .ok (.tBle 0xb5#8) ∧
    decode (.thumb 0b11011110_01010100#16) = .ok (.tUnd 0x54#8) ∧
    decode (.thumb 0b11011111_11110011#16) = .ok (.tSwi 0xf3#8) ∧
    decode (.thumb 0b11100_00110010010#16) = .ok (.tB 0x192#11) ∧
    decode (.thumb 0b11110_10000110000#16) = .ok (.tBlFirst 0x430#11) ∧
    decode (.thumb 0b11111_11011001111#16) = .ok (.tBlSecond 0x6cf#11) := by decide

/-! ## One step on the vectors of part 2 of spec/95_test_vectors.md -/

/-- A vector: length and word of the instruction, pc and CPSR before, the registers, SPSRs and memory listed before (all else
zero), then pc, CPSR and what changed after; `free` says that C (1), or C and V (2), are free values there. -/
structure Row where
  nbits : Nat
  word : Nat
  pc : Word
  cpsr : Word
  regs : List (PhysReg × Word)
  spsrs : List (ExcMode × Word)
  mem : List (Word × Width × Word)
  pc' : Word
  cpsr' : Word
  regs' : List (PhysReg × Word)
  spsrs' : List (ExcMode × Word)
  mem' : List (Word × Width × Word)
  free : Nat
  deriving DecidableEq, Repr

/-- A state with the listed values put in. -/
def patch (s : State) (cpsr : Word) (regs : List (PhysReg × Word)) (spsrs : List (ExcMode × Word))
    (mem : List (Word × Width × Word)) : State :=
  let s := { s with cpsr := ((spsrOfWord cpsr).restore).getD s.cpsr }
  let s := regs.foldl (fun s x => s.setPhys x.1 x.2) s
  let s := spsrs.foldl (fun s x => s.setSpsr x.1 (spsrOfWord x.2)) s
  { s with mem := mem.foldl (fun m x => m.storeBytes [] ((byteAddrs x.1 x.2.1).zip (valueBytes x.2.2 x.2.1))) s.mem }

/-- The state before, with the instruction placed. -/
def Row.before (r : Row) : State :=
  State.withFetchWord { patch State.reset r.cpsr r.regs r.spsrs r.mem with pc := r.pc } r.nbits r.word

/-- The step ends with every register, status register, pc and byte of memory as the vector says. -/
def Row.passes (r : Row) : Bool :=
  match step r.before with
  | .next t =>
    let e := patch r.before r.cpsr' r.regs' r.spsrs' r.mem'
    decide (t.regs = e.regs) && decide (t.pc = r.pc') && decide (t.mem = e.mem) &&
      decide (t.spsrFiq = e.spsrFiq ∧ t.spsrIrq = e.spsrIrq ∧ t.spsrSvc = e.spsrSvc ∧ t.spsrAbt = e.spsrAbt ∧
        t.spsrUnd = e.spsrUnd) &&
      decide ({ t.cpsr with
        c := if r.free = 0 then t.cpsr.c else e.cpsr.c
        v := if r.free = 2 then e.cpsr.v else t.cpsr.v } = e.cpsr)
  | .fault _ => false
  | .refused _ => false

/-- Table B of part 2: the word at 0x03000000 + 4k holds 0x100 + k. -/
def tableB : List (Word × Width × Word) :=
  (List.range 10).map fun k => (BitVec.ofNat 32 (0x02FFFFF0 + 4 * k), .word, BitVec.ofNat 32 (0xFC + k))

/-- Vectors of part 2, section 2.1: ADDS r0, r1, r2; SUBS r0, r1, r2; SUBS r0, r1, #1; RSBS r0, r1, #0; ADCS r0, r1, #0; ADCS r0, r1, r2; SBCS r0, r1, r2; RSCS r0, r1, r2; ANDS r0, r1, #0xFF000000; EORS r0, r1, r2; ORRS r0, r1, r2, LSL #31; BICS r0, r1, #0xF. -/
theorem test_vectors_arm_data_processing_1 :
    ([⟨32, 0xE0910002, 0x8000#32, 0x1F#32, [(.r1, 0x7FFFFFFF#32), (.r2, 1#32)], [], [],
      0x8004#32, 0x9000001F#32, [(.r0, 0x80000000#32)], [], [], 0⟩,
    ⟨32, 0xE0510002, 0x8000#32, 0x1F#32, [(.r1, 5#32), (.r2, 5#32)], [], [],
      0x8004#32, 0x6000001F#32, [(.r0, 0#32)], [], [], 0⟩,
    ⟨32, 0xE2510001, 0x8000#32, 0x1F#32, [(.r1, 0x80000000#32)], [], [],
      0x8004#32, 0x3000001F#32, [(.r0, 0x7FFFFFFF#32)], [], [], 0⟩,
    ⟨32, 0xE2710000, 0x8000#32, 0x1F#32, [(.r1, 1#32)], [], [],
      0x8004#32, 0x8000001F#32, [(.r0, 0xFFFFFFFF#32)], [], [], 0⟩,
    ⟨32, 0xE2B10000, 0x8000#32, 0x2000001F#32, [(.r1, 0xFFFFFFFF#32)], [], [],
      0x8004#32, 0x6000001F#32, [(.r0, 0#32)], [], [], 0⟩,
    ⟨32, 0xE0B10002, 0x8000#32, 0x2000001F#32, [(.r1, 0x7FFFFFFF#32), (.r2, 0#32)], [], [],
      0x8004#32, 0x9000001F#32, [(.r0, 0x80000000#32)], [], [], 0⟩,
    ⟨32, 0xE0D10002, 0x8000#32, 0x1F#32, [(.r1, 5#32), (.r2, 3#32)], [], [],
      0x8004#32, 0x2000001F#32, [(.r0, 1#32)], [], [], 0⟩,
    ⟨32, 0xE0F10002, 0x8000#32, 0x1F#32, [(.r1, 3#32), (.r2, 5#32)], [], [],
      0x8004#32, 0x2000001F#32, [(.r0, 1#32)], [], [], 0⟩,
    ⟨32, 0xE21104FF, 0x8000#32, 0x1F#32, [(.r1, 0x12345678#32)], [], [],
      0x8004#32, 0x2000001F#32, [(.r0, 0x12000000#32)], [], [], 0⟩,
    ⟨32, 0xE0310002, 0x8000#32, 0x2000001F#32, [(.r1, 0xFFFF0000#32), (.r2, 0xFFFF0000#32)], [], [],
      0x8004#32, 0x6000001F#32, [(.r0, 0#32)], [], [], 0⟩,
    ⟨32, 0xE1910F82, 0x8000#32, 0x1F#32, [(.r1, 1#32), (.r2, 3#32)], [], [],
      0x8004#32, 0xA000001F#32, [(.r0, 0x80000001#32)], [], [], 0⟩,
    ⟨32, 0xE3D1000F, 0x8000#32, 0x1F#32, [(.r1, 0xFF#32)], [], [],
      0x8004#32, 0x1F#32, [(.r0, 0xF0#32)], [], [], 0⟩] : List Row).all Row.passes = true := by decide

/-- Vectors of part 2, section 2.1: MVNS r0, #0; MOVS r0, r1 (LSL #0); MOVS r0, r1, LSR #32; MOVS r0, r1, ASR #32; MOVS r0, r1, RRX; MOVS r0, r1, RRX; MOVS r0, r1, LSL r2; MOVS r0, r1, LSL r2; MOVS r0, r1, LSL r2; MOVS r0, r1, LSL r2; MOVS r0, r1, LSL r2; TST r1, #0x80000000. -/
theorem test_vectors_arm_data_processing_2 :
    ([⟨32, 0xE3F00000, 0x8000#32, 0x1F#32, [], [], [],
      0x8004#32, 0x8000001F#32, [(.r0, 0xFFFFFFFF#32)], [], [], 0⟩,
    ⟨32, 0xE1B00001, 0x8000#32, 0x2000001F#32, [(.r1, 0x80000000#32)], [], [],
      0x8004#32, 0xA000001F#32, [(.r0, 0x80000000#32)], [], [], 0⟩,
    ⟨32, 0xE1B00021, 0x8000#32, 0x1F#32, [(.r1, 0x80000000#32)], [], [],
      0x8004#32, 0x6000001F#32, [(.r0, 0#32)], [], [], 0⟩,
    ⟨32, 0xE1B00041, 0x8000#32, 0x1F#32, [(.r1, 0x80000000#32)], [], [],
      0x8004#32, 0xA000001F#32, [(.r0, 0xFFFFFFFF#32)], [], [], 0⟩,
    ⟨32, 0xE1B00061, 0x8000#32, 0x2000001F#32, [(.r1, 1#32)], [], [],
      0x8004#32, 0xA000001F#32, [(.r0, 0x80000000#32)], [], [], 0⟩,
    ⟨32, 0xE1B00061, 0x8000#32, 0x1F#32, [(.r1, 2#32)], [], [],
      0x8004#32, 0x1F#32, [(.r0, 1#32)], [], [], 0⟩,
    ⟨32, 0xE1B00211, 0x8000#32, 0x2000001F#32, [(.r1, 0x80000001#32), (.r2, 0#32)], [], [],
      0x8004#32, 0xA000001F#32, [(.r0, 0x80000001#32)], [], [], 0⟩,
    ⟨32, 0xE1B00211, 0x8000#32, 0x2000001F#32, [(.r1, 0x80000001#32), (.r2, 1#32)], [], [],
      0x8004#32, 0x2000001F#32, [(.r0, 2#32)], [], [], 0⟩,
    ⟨32, 0xE1B00211, 0x8000#32, 0x2000001F#32, [(.r1, 0x80000001#32), (.r2, 0x20#32)], [], [],
      0x8004#32, 0x6000001F#32, [(.r0, 0#32)], [], [], 0⟩,
    ⟨32, 0xE1B00211, 0x8000#32, 0x2000001F#32, [(.r1, 0x80000001#32), (.r2, 0x21#32)], [], [],
      0x8004#32, 0x4000001F#32, [(.r0, 0#32)], [], [], 0⟩,
    ⟨32, 0xE1B00211, 0x8000#32, 0x2000001F#32, [(.r1, 0x80000001#32), (.r2, 0x100#32)], [], [],
      0x8004#32, 0xA000001F#32, [(.r0, 0x80000001#32)], [], [], 0⟩,
    ⟨32, 0xE3110102, 0x8000#32, 0x1F#32, [(.r1, 0x80000000#32)], [], [],
      0x8004#32, 0xA000001F#32, [], [], [], 0⟩] : List Row).all Row.passes = true := by decide

/-- Vectors of part 2, section 2.1: TEQ r1, r2; CMP r1, r2; CMN r1, r2; ADD r0, pc, #4; ADD r0, pc, r1, LSL r2; MOVNV r0, #1. -/
theorem test_vectors_arm_data_processing_3 :
    ([⟨32, 0xE1310002, 0x8000#32, 0x3000001F#32, [(.r1, 0x55#32), (.r2, 0x55#32)], [], [],
      0x8004#32, 0x7000001F#32, [], [], [], 0⟩,
    ⟨32, 0xE1510002, 0x8000#32, 0x1F#32, [(.r1, 1#32), (.r2, 2#32)], [], [],
      0x8004#32, 0x8000001F#32, [], [], [], 0⟩,
    ⟨32, 0xE1710002, 0x8000#32, 0x1F#32, [(.r1, 0xFFFFFFFF#32), (.r2, 1#32)], [], [],
      0x8004#32, 0x6000001F#32, [], [], [], 0⟩,
    ⟨32, 0xE28F0004, 0x8000#32, 0x1F#32, [], [], [],
      0x8004#32, 0x1F#32, [(.r0, 0x800C#32)], [], [], 0⟩,
    ⟨32, 0xE08F0211, 0x8000#32, 0x1F#32, [(.r1, 1#32), (.r2, 4#32)], [], [],
      0x8004#32, 0x1F#32, [(.r0, 0x801C#32)], [], [], 0⟩,
    ⟨32, 0xF3A00001, 0x8000#32, 0x1F#32, [], [], [],
      0x8004#32, 0x1F#32, [], [], [], 0⟩] : List Row).all Row.passes = true := by decide

/-- Vectors of part 2, section 2.2: MUL r0, r1, r2; MLA r0, r1, r2, r3; UMULL r0, r1, r2, r3; UMLAL r0, r1, r2, r3; SMULL r0, r1, r2, r3; SMLAL r0, r1, r2, r3. -/
theorem test_vectors_arm_multiply :
    ([⟨32, 0xE0000291, 0x8000#32, 0x1F#32, [(.r1, 6#32), (.r2, 7#32)], [], [],
      0x8004#32, 0x1F#32, [(.r0, 0x2A#32)], [], [], 0⟩,
    ⟨32, 0xE0203291, 0x8000#32, 0x1F#32, [(.r1, 6#32), (.r2, 7#32), (.r3, 0x64#32)], [], [],
      0x8004#32, 0x1F#32, [(.r0, 0x8E#32)], [], [], 0⟩,
    ⟨32, 0xE0810392, 0x8000#32, 0x1F#32, [(.r2, 0xFFFFFFFF#32), (.r3, 0xFFFFFFFF#32)], [], [],
      0x8004#32, 0x1F#32, [(.r0, 1#32), (.r1, 0xFFFFFFFE#32)], [], [], 0⟩,
    ⟨32, 0xE0A10392, 0x8000#32, 0x1F#32, [(.r0, 0xFFFFFFFF#32), (.r1, 0#32), (.r2, 1#32), (.r3, 1#32)], [], [],
      0x8004#32, 0x1F#32, [(.r0, 0#32), (.r1, 1#32)], [], [], 0⟩,
    ⟨32, 0xE0C10392, 0x8000#32, 0x1F#32, [(.r2, 0xFFFFFFFF#32), (.r3, 0xFFFFFFFF#32)], [], [],
      0x8004#32, 0x1F#32, [(.r0, 1#32), (.r1, 0#32)], [], [], 0⟩,
    ⟨32, 0xE0E10392, 0x8000#32, 0x1F#32, [(.r0, 1#32), (.r1, 0#32), (.r2, 0xFFFFFFFF#32), (.r3, 1#32)], [], [],
      0x8004#32, 0x1F#32, [(.r0, 0#32), (.r1, 0#32)], [], [], 0⟩] : List Row).all Row.passes = true := by decide

/-- Vectors of part 2, section 2.3: LDR r0, [r1]; LDR r0, [r1], #4; LDR r0, [r1, r2, LSL #2]; LDR r0, [r1, -r2, LSR #32]; LDRB r0, [r1, #3]; STR r0, [r1, #2]; STRB r0, [r1], #1; LDRT r0, [r1], #4; STRBT r0, [r1], #1; LDRH r0, [r1]; LDRSH r0, [r1]; LDRSB r0, [r1, #1]. -/
theorem test_vectors_arm_single_transfers_1 :
    ([⟨32, 0xE5910000, 0x8000#32, 0x1F#32, [(.r1, 0x3000000#32)], [], [(0x3000000#32, .word, 0x44332211#32), (0x3000004#32, .word, 0x88776655#32)],
      0x8004#32, 0x1F#32, [(.r0, 0x44332211#32)], [], [], 0⟩,
    ⟨32, 0xE4910004, 0x8000#32, 0x1F#32, [(.r1, 0x3000000#32)], [], [(0x3000000#32, .word, 0x44332211#32), (0x3000004#32, .word, 0x88776655#32)],
      0x8004#32, 0x1F#32, [(.r0, 0x44332211#32), (.r1, 0x3000004#32)], [], [], 0⟩,
    ⟨32, 0xE7910102, 0x8000#32, 0x1F#32, [(.r1, 0x3000000#32), (.r2, 1#32)], [], [(0x3000000#32, .word, 0x44332211#32), (0x3000004#32, .word, 0x88776655#32)],
      0x8004#32, 0x1F#32, [(.r0, 0x88776655#32)], [], [], 0⟩,
    ⟨32, 0xE7110022, 0x8000#32, 0x1F#32, [(.r1, 0x3000000#32), (.r2, 0xFFFFFFFF#32)], [], [(0x3000000#32, .word, 0x44332211#32), (0x3000004#32, .word, 0x88776655#32)],
      0x8004#32, 0x1F#32, [(.r0, 0x44332211#32)], [], [], 0⟩,
    ⟨32, 0xE5D10003, 0x8000#32, 0x1F#32, [(.r1, 0x3000000#32)], [], [(0x3000000#32, .word, 0x44332211#32), (0x3000004#32, .word, 0x88776655#32)],
      0x8004#32, 0x1F#32, [(.r0, 0x44#32)], [], [], 0⟩,
    ⟨32, 0xE5810002, 0x8000#32, 0x1F#32, [(.r0, 0xAABBCCDD#32), (.r1, 0x3000000#32)], [], [],
      0x8004#32, 0x1F#32, [], [], [(0x3000000#32, .word, 0xAABBCCDD#32)], 0⟩,
    ⟨32, 0xE4C10001, 0x8000#32, 0x1F#32, [(.r0, 0xAABBCCDD#32), (.r1, 0x3000001#32)], [], [],
      0x8004#32, 0x1F#32, [(.r1, 0x3000002#32)], [], [(0x3000001#32, .byte, 0xDD#32)], 0⟩,
    ⟨32, 0xE4B10004, 0x8000#32, 0xD3#32, [(.r1, 0x3000000#32)], [], [(0x3000000#32, .word, 0x44332211#32), (0x3000004#32, .word, 0x88776655#32)],
      0x8004#32, 0xD3#32, [(.r0, 0x44332211#32), (.r1, 0x3000004#32)], [], [], 0⟩,
    ⟨32, 0xE4E10001, 0x8000#32, 0xD3#32, [(.r0, 0x5A#32), (.r1, 0x3000000#32)], [], [],
      0x8004#32, 0xD3#32, [(.r1, 0x3000001#32)], [], [(0x3000000#32, .byte, 0x5A#32)], 0⟩,
    ⟨32, 0xE1D100B0, 0x8000#32, 0x1F#32, [(.r1, 0x3000000#32)], [], [(0x3000000#32, .word, 0xBEEF8001#32)],
      0x8004#32, 0x1F#32, [(.r0, 0x8001#32)], [], [], 0⟩,
    ⟨32, 0xE1D100F0, 0x8000#32, 0x1F#32, [(.r1, 0x3000000#32)], [], [(0x3000000#32, .word, 0xBEEF8001#32)],
      0x8004#32, 0x1F#32, [(.r0, 0xFFFF8001#32)], [], [], 0⟩,
    ⟨32, 0xE1D100D1, 0x8000#32, 0x1F#32, [(.r1, 0x3000000#32)], [], [(0x3000000#32, .word, 0xBEEF8001#32)],
      0x8004#32, 0x1F#32, [(.r0, 0xFFFFFF80#32)], [], [], 0⟩] : List Row).all Row.passes = true := by decide

/-- Vectors of part 2, section 2.3: LDRH r0, [r1], -r2; STRH r0, [r1, #0x12]!; SWP r0, r1, [r2]; SWPB r0, r1, [r2]. -/
theorem test_vectors_arm_single_transfers_2 :
    ([⟨32, 0xE01100B2, 0x8000#32, 0x1F#32, [(.r1, 0x3000002#32), (.r2, 2#32)], [], [(0x3000000#32, .word, 0xBEEF8001#32)],
      0x8004#32, 0x1F#32, [(.r0, 0xBEEF#32), (.r1, 0x3000000#32)], [], [], 0⟩,
    ⟨32, 0xE1E101B2, 0x8000#32, 0x1F#32, [(.r0, 0xAABBCCDD#32), (.r1, 0x3000000#32)], [], [],
      0x8004#32, 0x1F#32, [(.r1, 0x3000012#32)], [], [(0x3000012#32, .half, 0xCCDD#32)], 0⟩,
    ⟨32, 0xE1020091, 0x8000#32, 0x1F#32, [(.r1, 0xAAAAAAAA#32), (.r2, 0x3000000#32)], [], [(0x3000000#32, .word, 0x44332211#32), (0x3000004#32, .word, 0x88776655#32)],
      0x8004#32, 0x1F#32, [(.r0, 0x44332211#32)], [], [(0x3000000#32, .word, 0xAAAAAAAA#32)], 0⟩,
    ⟨32, 0xE1420091, 0x8000#32, 0x1F#32, [(.r1, 0xAAAAAA99#32), (.r2, 0x3000001#32)], [], [(0x3000000#32, .word, 0x44332211#32), (0x3000004#32, .word, 0x88776655#32)],
      0x8004#32, 0x1F#32, [(.r0, 0x22#32)], [], [(0x3000001#32, .byte, 0x99#32)], 0⟩] : List Row).all Row.passes = true := by decide

/-- Vectors of part 2, section 2.4: LDMIA r0!, r1, r2, r3; STMIA r0!, r1, r2; STMIA r0, r13, r14^ (IRQ mode); LDMIA r0, r13, r14^ (Supervisor mode); LDMIA sp!, r0, pc^ (IRQ mode: exception return). -/
theorem test_vectors_arm_block_transfers :
    ([⟨32, 0xE8B0000E, 0x8000#32, 0x1F#32, [(.r0, 0x3000000#32)], [], tableB,
      0x8004#32, 0x1F#32, [(.r0, 0x300000C#32), (.r1, 0x100#32), (.r2, 0x101#32), (.r3, 0x102#32)], [], [], 0⟩,
    ⟨32, 0xE8A00006, 0x8000#32, 0x1F#32, [(.r0, 0x3000000#32), (.r1, 0x11#32), (.r2, 0x22#32)], [], [],
      0x8004#32, 0x1F#32, [(.r0, 0x3000008#32)], [], [(0x3000000#32, .word, 0x11#32), (0x3000004#32, .word, 0x22#32)], 0⟩,
    ⟨32, 0xE8C06000, 0x8000#32, 0x92#32, [(.r0, 0x3000000#32), (.r13usr, 0x1000#32), (.r14usr, 0x2000#32), (.r13irq, 0x3000#32), (.r14irq, 0x4000#32)], [], [],
      0x8004#32, 0x92#32, [], [], [(0x3000000#32, .word, 0x1000#32), (0x3000004#32, .word, 0x2000#32)], 0⟩,
    ⟨32, 0xE8D06000, 0x8000#32, 0xD3#32, [(.r0, 0x3000000#32)], [], tableB,
      0x8004#32, 0xD3#32, [(.r13usr, 0x100#32), (.r14usr, 0x101#32)], [], [], 0⟩,
    ⟨32, 0xE8FD8001, 0x8000#32, 0x92#32, [(.r13irq, 0x3000000#32)], [(.irq, 0x80000030#32)], [(0x3000000#32, .word, 0x77#32), (0x3000004#32, .word, 0x8000101#32)],
      0x8000100#32, 0x80000030#32, [(.r0, 0x77#32), (.r13irq, 0x3000008#32)], [], [], 0⟩] : List Row).all Row.passes = true := by decide

/-- Vectors of part 2, section 2.5: B +0x10 (to 0x8010); BL 0x9000; BX r0 (to THUMB); MRS r0, CPSR; MSR CPSR_c, #0x1F (Supervisor); MSR CPSR_fc, r0; SWI 0x123456 (User); UND (0xE7F000F0); CDP p1, 0, c0, c0, c0; MRC p15, 0, r0, c0, c0, 0; LDC p1, c0, [r0]; no row: 0000 0100 / 1001. -/
theorem test_vectors_arm_branches_status_traps :
    ([⟨32, 0xEA000002, 0x8000#32, 0x1F#32, [], [], [],
      0x8010#32, 0x1F#32, [], [], [], 0⟩,
    ⟨32, 0xEB0003FE, 0x8000#32, 0x1F#32, [], [], [],
      0x9000#32, 0x1F#32, [(.r14usr, 0x8004#32)], [], [], 0⟩,
    ⟨32, 0xE12FFF10, 0x8000#32, 0x1F#32, [(.r0, 0x8000101#32)], [], [],
      0x8000100#32, 0x3F#32, [], [], [], 0⟩,
    ⟨32, 0xE10F0000, 0x8000#32, 0xA0000010#32, [], [], [],
      0x8004#32, 0xA0000010#32, [(.r0, 0xA0000010#32)], [], [], 0⟩,
    ⟨32, 0xE321F01F, 0x8000#32, 0xD3#32, [], [], [],
      0x8004#32, 0x1F#32, [], [], [], 0⟩,
    ⟨32, 0xE129F000, 0x8000#32, 0x6000001F#32, [(.r0, 0x900000D2#32)], [], [],
      0x8004#32, 0x900000D2#32, [], [], [], 0⟩,
    ⟨32, 0xEF123456, 0x8000#32, 0x60000010#32, [], [], [],
      8#32, 0x60000093#32, [(.r14svc, 0x8004#32)], [(.svc, 0x60000010#32)], [], 0⟩,
    ⟨32, 0xE7F000F0, 0x8000#32, 0x1F#32, [], [], [],
      4#32, 0x9B#32, [(.r14und, 0x8004#32)], [(.und, 0x1F#32)], [], 0⟩,
    ⟨32, 0xEE000100, 0x8000#32, 0x10#32, [], [], [],
      4#32, 0x9B#32, [(.r14und, 0x8004#32)], [(.und, 0x10#32)], [], 0⟩,
    ⟨32, 0xEE100F10, 0x8000#32, 0xD3#32, [], [], [],
      4#32, 0xDB#32, [(.r14und, 0x8004#32)], [(.und, 0xD3#32)], [], 0⟩,
    ⟨32, 0xED900100, 0x8000#32, 0x10#32, [], [], [],
      4#32, 0x9B#32, [(.r14und, 0x8004#32)], [(.und, 0x10#32)], [], 0⟩,
    ⟨32, 0xE0400090, 0x8000#32, 0x10#32, [], [], [],
      4#32, 0x9B#32, [(.r14und, 0x8004#32)], [(.und, 0x10#32)], [], 0⟩] : List Row).all Row.passes = true := by decide

/-- Vectors of part 2, section 2.6: LSL r0, r1, #2; LSR r0, r1, #32 (offset5 = 0); ASR r0, r1, #32 (offset5 = 0); ADD r0, r1, r2; SUB r0, r1, r2; ADD r0, r1, #7; SUB r0, r1, #1; MOV r0, #0xFF; CMP r1, #0; ADD r2, #1; SUB r3, #0x10; AND r0, r1. -/
theorem test_vectors_thumb_alu_1 :
    ([⟨16, 0x0088, 0x8000#32, 0x3F#32, [(.r1, 0x40000001#32)], [], [],
      0x8002#32, 0x2000003F#32, [(.r0, 4#32)], [], [], 0⟩,
    ⟨16, 0x0808, 0x8000#32, 0x3F#32, [(.r1, 0x80000000#32)], [], [],
      0x8002#32, 0x6000003F#32, [(.r0, 0#32)], [], [], 0⟩,
    ⟨16, 0x1008, 0x8000#32, 0x3F#32, [(.r1, 0x80000000#32)], [], [],
      0x8002#32, 0xA000003F#32, [(.r0, 0xFFFFFFFF#32)], [], [], 0⟩,
    ⟨16, 0x1888, 0x8000#32, 0x3F#32, [(.r1, 0x7FFFFFFF#32), (.r2, 1#32)], [], [],
      0x8002#32, 0x9000003F#32, [(.r0, 0x80000000#32)], [], [], 0⟩,
    ⟨16, 0x1A88, 0x8000#32, 0x3F#32, [(.r1, 1#32), (.r2, 2#32)], [], [],
      0x8002#32, 0x8000003F#32, [(.r0, 0xFFFFFFFF#32)], [], [], 0⟩,
    ⟨16, 0x1DC8, 0x8000#32, 0x3F#32, [(.r1, 0xFFFFFFF9#32)], [], [],
      0x8002#32, 0x6000003F#32, [(.r0, 0#32)], [], [], 0⟩,
    ⟨16, 0x1E48, 0x8000#32, 0x3F#32, [(.r1, 0x80000000#32)], [], [],
      0x8002#32, 0x3000003F#32, [(.r0, 0x7FFFFFFF#32)], [], [], 0⟩,
    ⟨16, 0x20FF, 0x8000#32, 0xF000003F#32, [], [], [],
      0x8002#32, 0x3000003F#32, [(.r0, 0xFF#32)], [], [], 0⟩,
    ⟨16, 0x2900, 0x8000#32, 0x3F#32, [(.r1, 0#32)], [], [],
      0x8002#32, 0x6000003F#32, [], [], [], 0⟩,
    ⟨16, 0x3201, 0x8000#32, 0x3F#32, [(.r2, 0xFFFFFFFF#32)], [], [],
      0x8002#32, 0x6000003F#32, [(.r2, 0#32)], [], [], 0⟩,
    ⟨16, 0x3B10, 0x8000#32, 0x3F#32, [(.r3, 0x10#32)], [], [],
      0x8002#32, 0x6000003F#32, [(.r3, 0#32)], [], [], 0⟩,
    ⟨16, 0x4008, 0x8000#32, 0x2000003F#32, [(.r0, 0xF0F0#32), (.r1, 0xFF00#32)], [], [],
      0x8002#32, 0x2000003F#32, [(.r0, 0xF000#32)], [], [], 0⟩] : List Row).all Row.passes = true := by decide

/-- Vectors of part 2, section 2.6: EOR r0, r1; LSL r0, r1; LSR r0, r1; ASR r0, r1; ROR r0, r1; ADC r0, r1; SBC r0, r1; TST r0, r1; NEG r0, r1; CMP r0, r1; CMN r0, r1; ORR r0, r1. -/
theorem test_vectors_thumb_alu_2 :
    ([⟨16, 0x4048, 0x8000#32, 0x3F#32, [(.r0, 0xFF#32), (.r1, 0xFF#32)], [], [],
      0x8002#32, 0x4000003F#32, [(.r0, 0#32)], [], [], 0⟩,
    ⟨16, 0x4088, 0x8000#32, 0x2000003F#32, [(.r0, 0x80000001#32), (.r1, 0#32)], [], [],
      0x8002#32, 0xA000003F#32, [(.r0, 0x80000001#32)], [], [], 0⟩,
    ⟨16, 0x40C8, 0x8000#32, 0x3F#32, [(.r0, 0x80000001#32), (.r1, 0x20#32)], [], [],
      0x8002#32, 0x6000003F#32, [(.r0, 0#32)], [], [], 0⟩,
    ⟨16, 0x4108, 0x8000#32, 0x3F#32, [(.r0, 0x80000001#32), (.r1, 0x28#32)], [], [],
      0x8002#32, 0xA000003F#32, [(.r0, 0xFFFFFFFF#32)], [], [], 0⟩,
    ⟨16, 0x41C8, 0x8000#32, 0x3F#32, [(.r0, 0x8000000F#32), (.r1, 0x20#32)], [], [],
      0x8002#32, 0xA000003F#32, [(.r0, 0x8000000F#32)], [], [], 0⟩,
    ⟨16, 0x4148, 0x8000#32, 0x2000003F#32, [(.r0, 0xFFFFFFFF#32), (.r1, 0#32)], [], [],
      0x8002#32, 0x6000003F#32, [(.r0, 0#32)], [], [], 0⟩,
    ⟨16, 0x4188, 0x8000#32, 0x3F#32, [(.r0, 5#32), (.r1, 3#32)], [], [],
      0x8002#32, 0x2000003F#32, [(.r0, 1#32)], [], [], 0⟩,
    ⟨16, 0x4208, 0x8000#32, 0x2000003F#32, [(.r0, 0x80000000#32), (.r1, 0x80000000#32)], [], [],
      0x8002#32, 0xA000003F#32, [], [], [], 0⟩,
    ⟨16, 0x4248, 0x8000#32, 0x3F#32, [(.r0, 0x55#32), (.r1, 1#32)], [], [],
      0x8002#32, 0x8000003F#32, [(.r0, 0xFFFFFFFF#32)], [], [], 0⟩,
    ⟨16, 0x4288, 0x8000#32, 0x3F#32, [(.r0, 1#32), (.r1, 1#32)], [], [],
      0x8002#32, 0x6000003F#32, [], [], [], 0⟩,
    ⟨16, 0x42C8, 0x8000#32, 0x3F#32, [(.r0, 0x7FFFFFFF#32), (.r1, 1#32)], [], [],
      0x8002#32, 0x9000003F#32, [], [], [], 0⟩,
    ⟨16, 0x4308, 0x8000#32, 0x3F#32, [(.r0, 0xF#32), (.r1, 0xF0#32)], [], [],
      0x8002#32, 0x3F#32, [(.r0, 0xFF#32)], [], [], 0⟩] : List Row).all Row.passes = true := by decide

/-- Vectors of part 2, section 2.6: MUL r0, r1 (C is a draw, shown unchanged); BIC r0, r1; MVN r0, r1. -/
theorem test_vectors_thumb_alu_3 :
    ([⟨16, 0x4348, 0x8000#32, 0x3F#32, [(.r0, 6#32), (.r1, 7#32)], [], [],
      0x8002#32, 0x3F#32, [(.r0, 0x2A#32)], [], [], 1⟩,
    ⟨16, 0x4388, 0x8000#32, 0x3F#32, [(.r0, 0xFF#32), (.r1, 0xF#32)], [], [],
      0x8002#32, 0x3F#32, [(.r0, 0xF0#32)], [], [], 0⟩,
    ⟨16, 0x43C8, 0x8000#32, 0x3F#32, [(.r1, 0xFFFFFFFF#32)], [], [],
      0x8002#32, 0x4000003F#32, [(.r0, 0#32)], [], [], 0⟩] : List Row).all Row.passes = true := by decide

/-- Vectors of part 2, section 2.7: ADD r0, r8; CMP r8, r0; MOV r8, r8 (no-operation); BX lr (to ARM); ADD r0, pc, #4; ADD r1, sp, #8; ADD sp, #8; SUB sp, #8. -/
theorem test_vectors_thumb_high_and_address :
    ([⟨16, 0x4440, 0x8000#32, 0x3F#32, [(.r0, 1#32), (.r8usr, 0xFFFFFFFF#32)], [], [],
      0x8002#32, 0x3F#32, [(.r0, 0#32)], [], [], 0⟩,
    ⟨16, 0x4580, 0x8000#32, 0x3F#32, [(.r0, 1#32), (.r8usr, 1#32)], [], [],
      0x8002#32, 0x6000003F#32, [], [], [], 0⟩,
    ⟨16, 0x46C0, 0x8000#32, 0xA000003F#32, [(.r8usr, 5#32)], [], [],
      0x8002#32, 0xA000003F#32, [(.r8usr, 5#32)], [], [], 0⟩,
    ⟨16, 0x4770, 0x8000#32, 0x3F#32, [(.r14usr, 0x9000#32)], [], [],
      0x9000#32, 0x1F#32, [], [], [], 0⟩,
    ⟨16, 0xA001, 0x8000#32, 0x3F#32, [], [], [],
      0x8002#32, 0x3F#32, [(.r0, 0x8008#32)], [], [], 0⟩,
    ⟨16, 0xA902, 0x8000#32, 0x3F#32, [(.r13usr, 0x3007F00#32)], [], [],
      0x8002#32, 0x3F#32, [(.r1, 0x3007F08#32)], [], [], 0⟩,
    ⟨16, 0xB002, 0x8000#32, 0x3F#32, [(.r13usr, 0x3007F00#32)], [], [],
      0x8002#32, 0x3F#32, [(.r13usr, 0x3007F08#32)], [], [], 0⟩,
    ⟨16, 0xB082, 0x8000#32, 0x3F#32, [(.r13usr, 0x3007F00#32)], [], [],
      0x8002#32, 0x3F#32, [(.r13usr, 0x3007EF8#32)], [], [], 0⟩] : List Row).all Row.passes = true := by decide

/-- Vectors of part 2, section 2.8: LDR r0, [pc, #8]; STR r0, [r1, r2]; STRB r0, [r1, r2]; LDR r0, [r1, r2]; LDRB r0, [r1, r2]; STRH r0, [r1, r2]; LDSB r0, [r1, r2]; LDRH r0, [r1, r2]; LDSH r0, [r1, r2]; STR r0, [r1, #4]; LDR r0, [r1, #4]; STRB r0, [r1, #1]. -/
theorem test_vectors_thumb_transfers_1 :
    ([⟨16, 0x4802, 0x8000#32, 0x3F#32, [], [], [(0x800C#32, .word, 0xCAFEF00D#32)],
      0x8002#32, 0x3F#32, [(.r0, 0xCAFEF00D#32)], [], [], 0⟩,
    ⟨16, 0x5088, 0x8000#32, 0x3F#32, [(.r0, 0x12345678#32), (.r1, 0x3000000#32), (.r2, 4#32)], [], [],
      0x8002#32, 0x3F#32, [], [], [(0x3000004#32, .word, 0x12345678#32)], 0⟩,
    ⟨16, 0x5488, 0x8000#32, 0x3F#32, [(.r0, 0xAABBCCDD#32), (.r1, 0x3000000#32), (.r2, 3#32)], [], [],
      0x8002#32, 0x3F#32, [], [], [(0x3000003#32, .byte, 0xDD#32)], 0⟩,
    ⟨16, 0x5888, 0x8000#32, 0x3F#32, [(.r1, 0x3000000#32), (.r2, 4#32)], [], [(0x3000000#32, .word, 0x44332211#32), (0x3000004#32, .word, 0x88776655#32)],
      0x8002#32, 0x3F#32, [(.r0, 0x88776655#32)], [], [], 0⟩,
    ⟨16, 0x5C88, 0x8000#32, 0x3F#32, [(.r1, 0x3000000#32), (.r2, 5#32)], [], [(0x3000000#32, .word, 0x44332211#32), (0x3000004#32, .word, 0x88776655#32)],
      0x8002#32, 0x3F#32, [(.r0, 0x66#32)], [], [], 0⟩,
    ⟨16, 0x5288, 0x8000#32, 0x3F#32, [(.r0, 0xAABBCCDD#32), (.r1, 0x3000000#32), (.r2, 2#32)], [], [],
      0x8002#32, 0x3F#32, [], [], [(0x3000002#32, .half, 0xCCDD#32)], 0⟩,
    ⟨16, 0x5688, 0x8000#32, 0x3F#32, [(.r1, 0x3000000#32), (.r2, 1#32)], [], [(0x3000000#32, .word, 0xBEEF8001#32)],
      0x8002#32, 0x3F#32, [(.r0, 0xFFFFFF80#32)], [], [], 0⟩,
    ⟨16, 0x5A88, 0x8000#32, 0x3F#32, [(.r1, 0x3000000#32), (.r2, 2#32)], [], [(0x3000000#32, .word, 0xBEEF8001#32)],
      0x8002#32, 0x3F#32, [(.r0, 0xBEEF#32)], [], [], 0⟩,
    ⟨16, 0x5E88, 0x8000#32, 0x3F#32, [(.r1, 0x3000000#32), (.r2, 0#32)], [], [(0x3000000#32, .word, 0xBEEF8001#32)],
      0x8002#32, 0x3F#32, [(.r0, 0xFFFF8001#32)], [], [], 0⟩,
    ⟨16, 0x6048, 0x8000#32, 0x3F#32, [(.r0, 0x12345678#32), (.r1, 0x3000000#32)], [], [],
      0x8002#32, 0x3F#32, [], [], [(0x3000004#32, .word, 0x12345678#32)], 0⟩,
    ⟨16, 0x6848, 0x8000#32, 0x3F#32, [(.r1, 0x3000000#32)], [], [(0x3000000#32, .word, 0x44332211#32), (0x3000004#32, .word, 0x88776655#32)],
      0x8002#32, 0x3F#32, [(.r0, 0x88776655#32)], [], [], 0⟩,
    ⟨16, 0x7048, 0x8000#32, 0x3F#32, [(.r0, 0xAB#32), (.r1, 0x3000000#32)], [], [],
      0x8002#32, 0x3F#32, [], [], [(0x3000001#32, .byte, 0xAB#32)], 0⟩] : List Row).all Row.passes = true := by decide

/-- Vectors of part 2, section 2.8: LDRB r0, [r1, #31]; STRH r0, [r1, #2]; LDRH r0, [r1, #2]; STR r0, [sp, #4]; LDR r0, [sp, #4]; PUSH r4, lr; POP r4, pc; STMIA r0!, r1, r2; LDMIA r0!, r1, r2. -/
theorem test_vectors_thumb_transfers_2 :
    ([⟨16, 0x7FC8, 0x8000#32, 0x3F#32, [(.r1, 0x2FFFFE8#32)], [], [(0x3000000#32, .word, 0x44332211#32), (0x3000004#32, .word, 0x88776655#32)],
      0x8002#32, 0x3F#32, [(.r0, 0x88#32)], [], [], 0⟩,
    ⟨16, 0x8048, 0x8000#32, 0x3F#32, [(.r0, 0xAABBCCDD#32), (.r1, 0x3000000#32)], [], [],
      0x8002#32, 0x3F#32, [], [], [(0x3000002#32, .half, 0xCCDD#32)], 0⟩,
    ⟨16, 0x8848, 0x8000#32, 0x3F#32, [(.r1, 0x3000000#32)], [], [(0x3000000#32, .word, 0xBEEF8001#32)],
      0x8002#32, 0x3F#32, [(.r0, 0xBEEF#32)], [], [], 0⟩,
    ⟨16, 0x9001, 0x8000#32, 0x3F#32, [(.r0, 0x12345678#32), (.r13usr, 0x3000000#32)], [], [],
      0x8002#32, 0x3F#32, [], [], [(0x3000004#32, .word, 0x12345678#32)], 0⟩,
    ⟨16, 0x9801, 0x8000#32, 0x3F#32, [(.r13usr, 0x3000000#32)], [], [(0x3000000#32, .word, 0x44332211#32), (0x3000004#32, .word, 0x88776655#32)],
      0x8002#32, 0x3F#32, [(.r0, 0x88776655#32)], [], [], 0⟩,
    ⟨16, 0xB510, 0x8000#32, 0x3F#32, [(.r4, 0x44#32), (.r13usr, 0x3007F00#32), (.r14usr, 0x8000123#32)], [], [],
      0x8002#32, 0x3F#32, [(.r13usr, 0x3007EF8#32)], [], [(0x3007EF8#32, .word, 0x44#32), (0x3007EFC#32, .word, 0x8000123#32)], 0⟩,
    ⟨16, 0xBD10, 0x8000#32, 0x3F#32, [(.r13usr, 0x3007EF8#32)], [], [(0x3007EF8#32, .word, 0x44#32), (0x3007EFC#32, .word, 0x8000123#32)],
      0x8000122#32, 0x3F#32, [(.r4, 0x44#32), (.r13usr, 0x3007F00#32)], [], [], 0⟩,
    ⟨16, 0xC006, 0x8000#32, 0x3F#32, [(.r0, 0x3000000#32), (.r1, 0x11#32), (.r2, 0x22#32)], [], [],
      0x8002#32, 0x3F#32, [(.r0, 0x3000008#32)], [], [(0x3000000#32, .word, 0x11#32), (0x3000004#32, .word, 0x22#32)], 0⟩,
    ⟨16, 0xC806, 0x8000#32, 0x3F#32, [(.r0, 0x3000000#32)], [], [(0x3000000#32, .word, 0x44332211#32), (0x3000004#32, .word, 0x88776655#32)],
      0x8002#32, 0x3F#32, [(.r0, 0x3000008#32), (.r1, 0x44332211#32), (.r2, 0x88776655#32)], [], [], 0⟩] : List Row).all Row.passes = true := by decide

/-- Vectors of part 2, section 2.9: BEQ +4 (to cur + 8), taken; BNE  (to itself), taken; BLT -256 (offset 0x80); BGT +254 (offset 0x7F); BLS, taken (C = 0); BHI, not taken (Z = 1); B  (to itself); SWI 5 (User); UND 0xDE00 (User); BL first half, offset high = 0; BL second half, offset low = 0x7E. -/
theorem test_vectors_thumb_branches_traps :
    ([⟨16, 0xD002, 0x8000#32, 0x4000003F#32, [], [], [],
      0x8008#32, 0x4000003F#32, [], [], [], 0⟩,
    ⟨16, 0xD1FE, 0x8000#32, 0x3F#32, [], [], [],
      0x8000#32, 0x3F#32, [], [], [], 0⟩,
    ⟨16, 0xDB80, 0x8000#32, 0x8000003F#32, [], [], [],
      0x7F04#32, 0x8000003F#32, [], [], [], 0⟩,
    ⟨16, 0xDC7F, 0x8000#32, 0x3F#32, [], [], [],
      0x8102#32, 0x3F#32, [], [], [], 0⟩,
    ⟨16, 0xD902, 0x8000#32, 0x3F#32, [], [], [],
      0x8008#32, 0x3F#32, [], [], [], 0⟩,
    ⟨16, 0xD802, 0x8000#32, 0x6000003F#32, [], [], [],
      0x8002#32, 0x6000003F#32, [], [], [], 0⟩,
    ⟨16, 0xE7FE, 0x8000#32, 0x3F#32, [], [], [],
      0x8000#32, 0x3F#32, [], [], [], 0⟩,
    ⟨16, 0xDF05, 0x8000#32, 0x20000030#32, [], [], [],
      8#32, 0x20000093#32, [(.r14svc, 0x8002#32)], [(.svc, 0x20000030#32)], [], 0⟩,
    ⟨16, 0xDE00, 0x8000100#32, 0x30#32, [], [], [],
      4#32, 0x9B#32, [(.r14und, 0x8000102#32)], [(.und, 0x30#32)], [], 0⟩,
    ⟨16, 0xF000, 0x8000000#32, 0x3F#32, [], [], [],
      0x8000002#32, 0x3F#32, [(.r14usr, 0x8000004#32)], [], [], 0⟩,
    ⟨16, 0xF87E, 0x8000002#32, 0x3F#32, [(.r14usr, 0x8000004#32)], [], [],
      0x8000100#32, 0x3F#32, [(.r14usr, 0x8000005#32)], [], [], 0⟩] : List Row).all Row.passes = true := by decide

/-! ## Witnesses: for each statement with hypotheses, states and operands that meet them -/

/-- A result that is a next state of which `P` holds. -/
def ended (r : Result) (P : State → Bool) : Bool :=
  match r with
  | .next t => P t
  | .fault _ => false
  | .refused _ => false

theorem ended_exists {r : Result} {P : State → Bool} (h : ended r P = true) : ∃ t, r = .next t ∧ P t = true := by
  cases r with
  | next t => exact ⟨t, rfl, h⟩
  | fault e => cases h
  | refused e => cases h

/-- The reset state in another mode, T and pc. -/
def inMode (m : Mode) (t : Bool) (pc : Word) : State :=
  { State.reset with cpsr := { Cpsr.reset with mode := m, t := t }, pc := pc }

/-- With an instruction placed at pc. -/
def placed (s : State) (nbits w : Nat) : State := s.withFetchWord nbits w

/-- A peripheral whose line is up and that watches for a write of 1 at its register 0x04000000. -/
def busy : Peripheral where
  memo := 0
  windows := [⟨0x04000000#32, 0x04000000#32⟩]
  elapsed := 0
  level := true
  events := [⟨0, .line true⟩, ⟨3, .poke 0x100#32 7#8⟩]
  responses := [⟨.write, ⟨0x04000000#32, 0xFF#8, 1#8⟩, false, []⟩]

/-- A peripheral with nothing to do. -/
def quiet : Peripheral where
  memo := 0
  windows := []
  elapsed := 5
  level := false
  events := []
  responses := []

/-- A device with registers at 0x04000000 to 0x040000FF and something of its own to do in 4 cycles. -/
def device : Peripheral where
  memo := 7
  windows := [⟨0x04000000#32, 0x040000FF#32⟩]
  elapsed := 0
  level := false
  events := [⟨4, .own⟩]
  responses := []

/-- A state with these peripherals. -/
def withPeriphs (s : State) (l : List Peripheral) : State := { s with plat := { s.plat with periphs := l } }

theorem test_witness_ResetState :
    State.reset ∈ State.construct [] Platform.none ∧
    State.resetWith [(0, 0xFE#8), (3, 0xEA#8)] { Platform.none with periphs := [busy] } ∈
      State.construct [(0, 0xFE#8), (3, 0xEA#8)] { Platform.none with periphs := [busy] } := ⟨rfl, rfl⟩

theorem test_witness_ResetMeetsInvariant :
    Memory.wf [] = true ∧ Memory.wf [(0, 0xFE#8), (4294967295, 1#8)] = true ∧ Memory.wf [(0, 0#8)] = false ∧
    Memory.wf [(4, 1#8), (4, 2#8)] = false ∧ Memory.wf [(4294967296, 1#8)] = false := by decide

theorem test_witness_StepKeepsInvariant :
    (State.reset.Inv ∧ ∃ t, step State.reset = .next t ∧ true = true) ∧
    ((inMode .usr true 0x8002#32).Inv ∧ ∃ t, step (inMode .usr true 0x8002#32) = .next t ∧ true = true) ∧
    ({ State.reset with halted := true }.Inv ∧ ∃ t, step { State.reset with halted := true } = .next t ∧ true = true) :=
  ⟨⟨by decide, ended_exists (P := fun _ => true) (by decide)⟩, ⟨by decide, ended_exists (P := fun _ => true) (by decide)⟩,
    by decide, ended_exists (P := fun _ => true) (by decide)⟩

theorem test_witness_StepRunsTheDecodedInstruction :
    State.reset.halted = false ∧
    decode (codeAt State.reset) = .ok (.andReg ⟨.eq, false, 0#4, 0#4, 0#5, .lsl, 0#4⟩) ∧
    (inMode .usr true 0x8002#32).halted = false ∧ decode (codeAt (inMode .usr true 0x8002#32)) = .ok (.tLslImm 0#5 0#3 0#3) ∧
    Unwatched (withPeriphs State.reset [device]) State.reset.pc (codeWidth State.reset) := by
  unfold Unwatched
  decide

/-- The edges of a device's registers. -/
theorem test_witness_Unwatched :
    let s := withPeriphs State.reset [quiet, device]
    Unwatched s 0x03FFFFFC#32 .word ∧ ¬Unwatched s 0x03FFFFFD#32 .word ∧ ¬Unwatched s 0x040000FF#32 .byte ∧
    Unwatched s 0x04000100#32 .half ∧ NoRegister s 0x04000100 ∧ ¬NoRegister s 0x04000000 := by
  refine ⟨by unfold Unwatched; decide, by unfold Unwatched; decide, by unfold Unwatched; decide, by unfold Unwatched; decide, ?_, ?_⟩
  · intro b h
    rw [show b = 0x04000100#32 from BitVec.eq_of_toNat_eq h]
    decide
  · intro h
    exact absurd (h 0x04000000#32 rfl) (by decide)

theorem test_witness_PcAdvancesBeforeExecution :
    State.reset.cpsr.t = false ∧ (inMode .usr true 0xFFFFFFFE#32).cpsr.t = true ∧
    (∃ t, exec (.tSwi 0#8) State.reset = .next t ∧ (!t.wrotePc) = true) ∧
    ∃ t, exec (.tNeg 1#3 2#3) State.reset = .next t ∧ (!t.wrotePc && !(Instr.tNeg 1#3 2#3).raises) = true :=
  ⟨rfl, rfl, ended_exists (by decide), ended_exists (by decide)⟩

theorem test_witness_WordsWithNoRowAreUndefined :
    goesOn (step (placed State.reset 32 0xE1200030)) = true ∧
    (∀ i, decode (codeAt (placed State.reset 32 0xE1200030)) ≠ .ok i) ∧
    condPassed (fetchedCond (placed State.reset 32 0xE1200030)) Cpsr.reset = true ∧
    (∀ i, decode (codeAt (placed State.reset 16 0xE800)) ≠ .ok i) ∧ (placed State.reset 16 0xE800).cpsr.t = true := by
  refine ⟨by decide, fun i h => ?_, by decide, fun i h => ?_, by decide⟩
  · have e : (match decode (codeAt (placed State.reset 32 0xE1200030)) with | .ok _ => false | .error _ => true) = true := by
      decide
    rw [h] at e
    cases e
  · have e : (match decode (codeAt (placed State.reset 16 0xE800)) with | .ok _ => false | .error _ => true) = true := by decide
    rw [h] at e
    cases e

theorem test_witness_FailedConditionDoesNothing :
    condPassed (fetchedCond State.reset) State.reset.cpsr = false ∧
    condPassed (fetchedCond (placed State.reset 32 0x01200030)) State.reset.cpsr = false ∧
    (Instr.swi ⟨.nv, 1#24⟩).cond = some .nv ∧ condPassed .nv State.reset.cpsr = false ∧
    decode (.thumb 0xDE00#16) = .ok (.tUnd 0#8) := by decide

theorem test_witness_ShiftByImmediate :
    (31 < 32 ∧ (0#5 : BitVec 5).toNat = 0 ∧ shiftImm .ror 0#5 2#32 true = (0x80000001#32, false)) ∧
    (31#5 ≠ 0#5 ∧ shiftImm .asr 31#5 0x80000000#32 false = (0xFFFFFFFF#32, false)) ∧
    immOperand 15#4 0xFF#8 false = (0x3FC#32, false) := by decide

theorem test_witness_ShiftByRegister :
    ((0#8 : Byte).toNat = 0 ∧ shiftReg .ror 0#8 2#32 true = (2#32, true)) ∧
    ((255#8 : Byte).toNat ≠ 0 ∧ shiftReg .lsl 255#8 1#32 true = (0#32, false)) ∧
    ((32#8 : Byte).toNat ≠ 0 ∧ shiftReg .ror 32#8 0x80000000#32 false = (0x80000000#32, true)) ∧
    (inMode .svc false 4#32).pc = 0#32 + 4#32 := by decide

theorem test_witness_Banks :
    (0#4 : Reg) ≠ 15#4 ∧ (14#4 : Reg) ≠ 15#4 ∧ physReg .fiq 8#4 ≠ physReg .usr 8#4 ∧
    readArm 14#4 (writeReg 14#4 7#32 (inMode .irq false 4#32)) = 7#32 := by decide

theorem test_witness_Register15 :
    (inMode .svc false 0#32).pc = 0xFFFFFFFC#32 + 4#32 ∧ readArm 15#4 (inMode .svc false 0#32) = 4#32 ∧
    (inMode .svc true 0x8006#32).pc = 0x8004#32 + 2#32 ∧ thumbPcBase (inMode .svc true 0x8006#32) = 0x8008#32 ∧
    (inMode .svc false 0#32).cpsr.t = false ∧ (inMode .svc true 0x8006#32).cpsr.t = true := by decide

theorem test_witness_ArmArithmetic :
    sumRows.length = 6 ∧ condPassed .al State.reset.cpsr = true ∧ condPassed .ne State.reset.cpsr = true ∧
    (⟨.al, true, 15#4, 14#4, 15#4, 0xFF#8⟩ : DpImm).rd ≠ 15#4 ∧ (⟨.ne, false, 15#4, 0#4, 0#5, .ror, 15#4⟩ : DpReg).rd ≠ 15#4 ∧
    (⟨.al, true, 15#4, 13#4, 15#4, .asr, 15#4⟩ : DpRsr).rd ≠ 15#4 := by decide

theorem test_witness_ArmLogical :
    logicalRows.length = 6 ∧ condPassed .cc State.reset.cpsr = true ∧
    (⟨.cc, true, 15#4, 14#4, 15#4, 0xFF#8⟩ : DpImm).rd ≠ 15#4 ∧ (⟨.cc, true, 15#4, 0#4, 0#5, .ror, 15#4⟩ : DpReg).rd ≠ 15#4 ∧
    (⟨.cc, true, 15#4, 13#4, 15#4, .asr, 15#4⟩ : DpRsr).rd ≠ 15#4 := by decide

theorem test_witness_ArmCompare :
    condPassed (⟨.pl, 15#4, 15#4, 15#4, 0xFF#8⟩ : CmpImm).cond State.reset.cpsr = true ∧
    condPassed (⟨.vc, 15#4, 0#4, 0#5, .ror, 15#4⟩ : CmpReg).cond State.reset.cpsr = true ∧
    condPassed (⟨.ge, 0#4, 0#4, 15#4, .lsr, 0#4⟩ : CmpRsr).cond State.reset.cpsr = true := by decide

/-- A state in IRQ mode whose SPSR_irq holds this word. -/
def withSaved (x : Word) : State := { inMode .irq false 0x1C#32 with spsrIrq := spsrOfWord x }

theorem test_witness_DataProcessingToPc :
    pcForm State.reset (.movImm ⟨.al, false, 0#4, 15#4, 0#4, 7#8⟩) = some (.al, false, 7#32) ∧
    pcForm (inMode .sys false 4#32) (.movImm ⟨.al, true, 0#4, 15#4, 0#4, 7#8⟩) = some (.al, true, 7#32) ∧
    excModeOf (inMode .sys false 4#32).cpsr.mode = none ∧ (withSaved 0x30#32).cpsr.t = false ∧
    excModeOf (withSaved 0x30#32).cpsr.mode = some .irq ∧
    modeOfBits ((withSaved 0x30#32).spsr .irq).m = some .usr ∧ modeOfBits ((withSaved 0#32).spsr .irq).m = none ∧
    pcForm (withSaved 0x30#32) (.subImm ⟨.al, true, 14#4, 15#4, 0#4, 4#8⟩) = some (.al, true, 0xFFFFFFFC#32) := by decide

theorem test_witness_MultiplyResults :
    condPassed (⟨.al, true, 0#4, 1#4, 2#4, 3#4⟩ : MulFields).cond State.reset.cpsr = true ∧
    condPassed (⟨.al, false, 15#4, 15#4, 15#4, 15#4⟩ : MulFields).cond State.reset.cpsr = true := by decide

theorem test_witness_LongMultiplyResults :
    condPassed (⟨.al, true, 0#4, 1#4, 2#4, 3#4⟩ : MullFields).cond State.reset.cpsr = true ∧
    condPassed (⟨.al, false, 1#4, 1#4, 2#4, 3#4⟩ : MullFields).cond State.reset.cpsr = true := by decide

theorem test_witness_MrsReads :
    condPassed (⟨.al, false, 15#4, 0#4, 0#4, 0#4⟩ : MrsFields).cond State.reset.cpsr = true ∧
    (excModeOf (inMode .svc false 4#32).cpsr.mode).map (inMode .svc false 4#32).spsr = some Spsr.reset ∧
    some State.reset.cpsr.save = some ⟨false, false, false, false, true, true, false, 0b10011#5⟩ := by decide

theorem test_witness_MsrCpsr :
    condPassed .al State.reset.cpsr = true ∧
    (∃ f, Instr.msrReg ⟨.al, false, 9#4, 15#4, 0#4, 0#4⟩ = .msrReg f ∧ f.r = false ∧ f.fieldMask = 9#4) ∧
    (∃ f, Instr.msrImm ⟨.al, false, 8#4, 15#4, 2#4, 0xF#8⟩ = .msrImm f ∧ f.r = false ∧
      (immOperand f.rotate f.imm8 false).1 = 0xF0000000#32) ∧
    modeOfBits ((0x1F#32 : Word).extractLsb' 0 5) = some .sys ∧ modeOfBits ((0#32 : Word).extractLsb' 0 5) = none := by
  refine ⟨by decide, ⟨_, rfl, by decide⟩, ⟨_, rfl, by decide⟩, by decide⟩

theorem test_witness_MsrSpsr :
    condPassed .al (inMode .usr false 4#32).cpsr = true ∧
    (∃ f, Instr.msrReg ⟨.al, true, 9#4, 15#4, 0#4, 0#4⟩ = .msrReg f ∧ f.r = true ∧ f.fieldMask = 9#4) ∧
    ∃ f, Instr.msrImm ⟨.al, true, 1#4, 15#4, 0#4, 0x10#8⟩ = .msrImm f ∧ f.r = true ∧ f.fieldMask = 1#4 := by
  refine ⟨by decide, ⟨_, rfl, by decide⟩, ⟨_, rfl, by decide⟩⟩

theorem test_witness_ArmBranches :
    (inMode .svc false 0#32).pc = 0xFFFFFFFC#32 + 4#32 ∧ (inMode .svc false 0#32).cpsr.t = false ∧
    (0xFFFFFFFC#32 : Word).toNat % 4 = 0 ∧
    condPassed (⟨.al, 0x800000#24⟩ : BranchFields).cond (inMode .svc false 0#32).cpsr = true := by decide

theorem test_witness_BranchExchange :
    (∃ f, Instr.bx ⟨.al, 0xFFF#12, 0#4⟩ = .bx f ∧ condPassed f.cond State.reset.cpsr = true ∧ 0#32 = readArm f.rm State.reset) ∧
    ∃ h r z, Instr.tBx true 6#3 0#3 = .tBx h r z ∧ 0#32 = readThumb (highSlot h r) State.reset :=
  ⟨⟨_, rfl, by decide⟩, _, _, _, rfl, by decide⟩

theorem test_witness_ThumbBranches :
    (inMode .svc true 0x8002#32).pc = 0x8000#32 + 2#32 ∧ (inMode .svc true 0x8002#32).cpsr.t = true ∧
    (0x8000#32 : Word).toNat % 2 = 0 ∧ thumbBranch (.tBne 0x80#8) = some (.ne, 0x80#8) ∧
    condPassed .ne (inMode .svc true 0x8002#32).cpsr = true ∧ thumbBranch (.tBeq 0x7F#8) = some (.eq, 0x7F#8) ∧
    condPassed .eq (inMode .svc true 0x8002#32).cpsr = false := by decide

theorem test_witness_ExceptionEntry :
    classRow .undefined = some (0x04#32, .und, false, 0#32) ∧ classRow .swi = some (0x08#32, .svc, false, 0#32) ∧
    classRow .irq = some (0x18#32, .irq, false, 4#32) ∧ classRow .fiq = some (0x1C#32, .fiq, true, 4#32) := ⟨rfl, rfl, rfl, rfl⟩

theorem test_witness_ExceptionInstructions :
    raised (.swi ⟨.al, 0#24⟩) = some (.al, .swi) ∧ raised (.mrc ⟨.eq, 0#3, 0#4, 0#4, 15#4, 0#3, 0#4⟩) = some (.eq, .undefined) ∧
    raised (.tUnd 0#8) = some (.al, .undefined) ∧ condPassed .al State.reset.cpsr = true ∧
    condPassed .eq State.reset.cpsr = false := by decide

theorem test_witness_InterruptPoll :
    (∀ p ∈ (withPeriphs State.reset [quiet]).plat.periphs, p.level = false) ∧
    (∃ p ∈ (withPeriphs State.reset [quiet, busy]).plat.periphs, p.level = true) ∧
    (withPeriphs State.reset [quiet, busy]).cpsr.i = true ∧
    (withPeriphs { State.reset with cpsr := { Cpsr.reset with i := false } } [quiet, busy]).cpsr.i = false := by decide

theorem test_witness_RaisedBeforeInterrupt :
    raised (.tSwi 0#8) = some (.al, .swi) ∧ condPassed .al (withPeriphs (inMode .usr true 2#32) [busy]).cpsr = true ∧
    ∃ t, exec (.tSwi 0#8) (withPeriphs (inMode .usr true 2#32) [busy]) = .next t ∧ t.interruptPending = true :=
  ⟨rfl, rfl, ended_exists (by decide)⟩

theorem test_witness_ReturnUndoesEntry :
    let s := inMode .usr true 0x8002#32
    alignPc s.cpsr.t s.pc = s.pc ∧
    (let e := enterException .irq s.pc s
     let u := writeReg 0#4 5#32 { e with pc := 0x1C#32 }
     u.cpsr.mode = e.cpsr.mode ∧ slot u 14#4 = slot e 14#4 ∧ u.spsrIrq = e.spsrIrq ∧ u.pc ≠ e.pc) ∧
    (let e := enterException .swi s.pc s
     let u := writeReg 0#4 5#32 { e with pc := 0x44#32 }
     u.cpsr.mode = e.cpsr.mode ∧ slot u 14#4 = slot e 14#4 ∧ u.spsrSvc = e.spsrSvc) := by decide

theorem test_witness_LoadValues :
    Unwatched (withPeriphs State.reset [device]) (loadAccess .signedHalf 0x04000101#32).addr (loadAccess .signedHalf 0x04000101#32).width ∧
    ¬Unwatched (withPeriphs State.reset [device]) (loadAccess .word 0x04000003#32).addr (loadAccess .word 0x04000003#32).width := by
  unfold Unwatched
  decide

theorem test_witness_ArmLoads :
    (armLoad (.ldrImmPre ⟨.al, true, true, 1#4, 1#4, 4#12⟩)).isSome = true ∧
    (armLoad (.ldrshReg ⟨.al, false, false, false, 15#4, 15#4, 0#4, 15#4⟩)).isSome = true ∧
    condPassed .al State.reset.cpsr = true := by decide

theorem test_witness_ArmStores :
    (armStore (.strImmPost ⟨.al, false, 1#4, 1#4, 0xFFF#12⟩)).isSome = true ∧
    (armStore (.strhImm ⟨.al, true, true, true, 15#4, 15#4, 15#4, 15#4⟩)).isSome = true ∧
    Memory.wf [(0, 1#8)] = true ∧ condPassed .al State.reset.cpsr = true := by decide

theorem test_witness_Swaps :
    condPassed (⟨.al, 1#4, 1#4, 0#4, 1#4⟩ : SwpFields).cond State.reset.cpsr = true ∧ State.reset.mem.wf = true := by decide

theorem test_witness_LoadMultiple :
    (⟨.al, true, false, true, 0#4, 1#16⟩ : BdtFields).list ≠ 0#16 ∧ (⟨.al, false, true, true, 15#4, 0x8000#16⟩ : BdtFields).list ≠ 0#16 ∧
    condPassed .al State.reset.cpsr = true ∧ UnwatchedBlock (withPeriphs State.reset [device]) 0xFFFF#16 0x04000100#32 :=
  ⟨by decide, by decide, by decide, by unfold UnwatchedBlock Unwatched; decide⟩

theorem test_witness_StoreMultiple :
    (⟨.al, true, false, true, 0#4, 3#16⟩ : BdtFields).list ≠ 0#16 ∧ rank 3#16 1 ≠ 0 ∧ rank 3#16 0 = 0 ∧
    inSlots 0x8000#16 15#4 = true ∧ condPassed .al State.reset.cpsr = true := by decide

theorem test_witness_UserBankTransfers :
    (⟨.al, false, true, false, 13#4, 0x7FFF#15⟩ : BdtLowFields).list ≠ 0#15 ∧
    (⟨.al, false, true, false, 13#4, 0x8000#16⟩ : BdtFields).list ≠ 0#16 ∧ condPassed .al State.reset.cpsr = true := by decide

theorem test_witness_LoadMultipleReturn :
    condPassed .al (withSaved 0x30#32).cpsr = true ∧ excModeOf (inMode .usr false 4#32).cpsr.mode = none ∧
    excModeOf (withSaved 0x30#32).cpsr.mode = some .irq ∧ modeOfBits ((withSaved 0x30#32).spsr .irq).m = some .usr ∧
    modeOfBits ((withSaved 0x1E#32).spsr .irq).m = none := by decide

theorem test_witness_StopsAreNamed :
    exec (.ldm ⟨.al, false, true, false, 0#4, 0#16⟩) State.reset = .refused .emptyRegisterList ∧
    exec (.stmUser ⟨.al, false, true, true, 0#4, 0x8000#16⟩) State.reset = .refused .userBankWriteback ∧
    exec (.msrImm ⟨.al, false, 1#4, 15#4, 0#4, 0#8⟩) State.reset = .fault .illegalMode ∧
    exec (.ldmReturn ⟨.al, false, true, false, 0#4, 0#15⟩) State.reset = .fault .illegalMode ∧
    exec (.tPush false 0#8) State.reset = .refused .emptyRegisterList := ⟨rfl, rfl, rfl, rfl, rfl⟩

theorem test_witness_ThumbArithmetic :
    (thumbSum State.reset (.tNeg 1#3 2#3)).isSome = true ∧ (thumbSum State.reset (.tCmpImm8 7#3 0xFF#8)).isSome = true := by decide

theorem test_witness_ThumbLogical :
    (thumbLogic State.reset (.tRor 1#3 2#3)).isSome = true ∧ (thumbLogic State.reset (.tLsrImm 0#5 7#3 0#3)).isSome = true := by
  decide

theorem test_witness_ThumbTransfers :
    (thumbLoadForm State.reset (.tLdrPc 7#3 0xFF#8)).isSome = true ∧ (thumbStoreForm State.reset (.tStrhImm 31#5 1#3 1#3)).isSome = true ∧
    State.reset.mem.wf = true := by decide

theorem test_witness_ThumbBlocks :
    pushList true 0#8 ≠ 0#16 ∧ popList false 0x80#8 ≠ 0#16 ∧ (1#8 : BitVec 8) ≠ 0#8 ∧ rank 6#16 2 ≠ 0 := by decide

theorem test_witness_OnlyTheseWriteStatus :
    (∃ t, exec (.movImm ⟨.al, true, 0#4, 1#4, 0#4, 0#8⟩) State.reset = .next t ∧ t.cpsr.z = true) ∧
    (∃ t, exec (.msrImm ⟨.al, true, 9#4, 15#4, 0#4, 0x10#8⟩) State.reset = .next t ∧ (t.spsrSvc.m == 0x10#5) = true) ∧
    excModeOf State.reset.cpsr.mode ≠ some .irq :=
  ⟨ended_exists (by decide), ended_exists (by decide), by decide⟩

theorem test_witness_OnlyTheseWriteFlags :
    writesFlags (.addImm ⟨.al, false, 0#4, 1#4, 0#4, 0#8⟩) = false ∧
    ∃ t, exec (.addImm ⟨.al, false, 0#4, 1#4, 0#4, 0#8⟩) State.reset = .next t ∧ true = true :=
  ⟨rfl, ended_exists (P := fun _ => true) (by decide)⟩

theorem test_witness_UserModeIsLeftOnlyThroughAVector :
    (∃ t, step (placed (inMode .usr false 0x8000#32) 32 0xEF000000) = .next t ∧ (t.cpsr.mode == .svc) = true) ∧
    (∃ t, step (placed (inMode .usr true 0x8000#32) 16 0xDE00) = .next t ∧ (t.cpsr.mode == .und) = true) ∧
    ∃ t, step (withPeriphs { inMode .usr false 0x8000#32 with
        cpsr := { Cpsr.reset with mode := .usr, i := false } } [busy]) = .next t ∧ (t.cpsr.mode == .irq) = true :=
  ⟨ended_exists (by decide), ended_exists (by decide), ended_exists (by decide)⟩

theorem test_witness_OtherBanksUntouched :
    (∀ r, r ≠ 15#4 → PhysReg.r13irq ≠ physReg Mode.svc r) ∧
    (∃ t, exec (.ldmUser ⟨.al, false, true, false, 0#4, 0x6000#15⟩) State.reset = .next t ∧ true = true) ∧
    (∀ r, r ≠ 15#4 → PhysReg.r13irq ≠ physReg Mode.usr r) ∧
    (∃ t, exec (.swi ⟨.al, 0#24⟩) (inMode .usr false 4#32) = .next t ∧ true = true) ∧
    (PhysReg.r13irq ≠ .r14svc ∧ PhysReg.r13irq ≠ .r14und) :=
  ⟨by decide, ended_exists (P := fun _ => true) (by decide), by decide, ended_exists (P := fun _ => true) (by decide), by decide⟩

theorem test_witness_LittleEndianMemory :
    State.reset.mem.wf = true ∧ Unwatched State.reset 0xFFFFFFFC#32 .word ∧ Unwatched State.reset 0x8002#32 .word ∧
    (∀ b ∈ byteAddrs 0xFFFFFFFC#32 .word, maskAt State.reset.plat.writeMasks b.toNat = 0xFF#8) ∧
    (0xFFFFFFFC#32 : Word).toNat % 4 = 0 ∧
    (∀ b ∈ byteAddrs 0x8002#32 .word, maskAt State.reset.plat.writeMasks b.toNat = 0xFF#8) ∧
    (0x8002#32 : Word).toNat % 2 = 0 :=
  ⟨rfl, rfl, rfl, fun _ _ => rfl, rfl, fun _ _ => rfl, rfl⟩

theorem test_witness_StoresThroughMasks :
    Unwatched (withPeriphs State.reset [device]) 0x03FFFFFF#32 .byte ∧ State.reset.mem.wf = true := ⟨rfl, rfl⟩

theorem test_witness_TicksMatchCosts :
    (∃ t, step State.reset = .next t ∧ true = true) ∧
    ∃ t, step (withPeriphs { State.reset with halted := true, budget := 9 } [quiet, busy]) = .next t ∧
      (t.plat.periphs.map Peripheral.elapsed == [6, 1]) = true :=
  ⟨ended_exists (P := fun _ => true) (by decide), ended_exists (by decide)⟩

theorem test_witness_HaltedPath :
    let a := withPeriphs { State.reset with halted := true, budget := 1 } [quiet]
    let b := withPeriphs { State.reset with halted := true, budget := 9 } [quiet, busy]
    a.halted = true ∧ 1 ≤ a.budget ∧ (∀ p ∈ a.plat.periphs, p.nextEvent = none) ∧
    b.halted = true ∧ 1 ≤ b.budget ∧ busy ∈ b.plat.periphs ∧ busy.nextEvent = some 0 ∧ b.cpsr.i = true ∧
    (∀ p ∈ b.plat.periphs, p.nextEvent = none ∨ p.nextEvent = some 0) ∧
    (∃ t, step a = .next t ∧ (t.plat.periphs.all fun p => !p.level) = true) ∧
    (∃ t, step b = .next t ∧ (t.plat.periphs.any fun p => p.level) = true) ∧
    ∃ t, step { b with cpsr := { Cpsr.reset with i := false } } = .next t ∧ (t.pc == 0x18#32 && !t.halted) = true :=
  ⟨rfl, by decide, by decide, rfl, by decide, by decide, rfl, rfl, by decide, ended_exists (by decide), ended_exists (by decide),
    ended_exists (by decide)⟩

theorem test_witness_NextEventIsALowerBound :
    (∀ k, quiet.nextEvent = some k → 100 < k) ∧
    (∀ k, { quiet with events := [⟨3, .line true⟩] }.nextEvent = some k → 2 < k ∧ 1 + 2 ≤ k) ∧
    (∀ k, device.nextEvent = some k → 3 < k ∧ 1 + 3 ≤ k) :=
  ⟨fun _ h => (nomatch h), fun k h => by cases h; decide, fun k h => by cases h; decide⟩

theorem test_witness_ExecuteConsumesTheQuantum :
    (∃ t, execute 1 State.reset = .next t ∧ true = true) ∧ execute 0 State.reset = .next State.reset ∧
    execute (-3) State.reset = .next { State.reset with budget := -3 } ∧ (1 : Int).toNat ≤ 5 :=
  ⟨ended_exists (P := fun _ => true) (by decide), rfl, rfl, by decide⟩

/-- The empty machine: memory all zero, no peripheral, awake, the CPSR of reset. -/
def Idle (s : State) : Prop := s.mem = [] ∧ s.plat.periphs = [] ∧ s.halted = false ∧ s.cpsr = Cpsr.reset

theorem idle_step (s : State) (h : Idle s) : ∃ t, step s = .next t ∧ Idle t := by
  obtain ⟨regs, pc, cpsr, f, q, v, a, u, halted, mem, last, ⟨bus, masks, halts, periphs⟩, cost, budget, wrote, draws⟩ := s
  obtain ⟨rfl, rfl, rfl, rfl⟩ := h
  let s : State := ⟨regs, pc, Cpsr.reset, f, q, v, a, u, false, [], last, ⟨bus, masks, halts, []⟩, cost, budget, wrote, draws⟩
  have hd : lookup false 0#32 = .ok (.andReg ⟨.eq, false, 0#4, 0#4, 0#5, .lsl, 0#4⟩) := by decide
  have hv : (fetch s).1 = 0#32 := by
    show Memory.load [] pc .word = 0#32
    simp [Memory.load, Memory.read, Memory.unlisted]
  have hx : executeFetched (fetch s) = .next (fetch s).2 := by
    unfold executeFetched
    rw [hv, show (fetch s).2.cpsr.t = false from rfl, hd]
    rfl
  exact ⟨completeStep (fetch s).2, by show andThen (executeFetched (fetch s)) completeStep = _; rw [hx]; rfl, rfl, rfl, rfl, rfl⟩

theorem idle_runLoop (k : Nat) : ∀ s, Idle s → ∃ t, runLoop k s = .next t ∧ Idle t := by
  induction k with
  | zero => exact fun s h => ⟨s, rfl, h⟩
  | succ k ih =>
    intro s h
    obtain ⟨u, hu, hi⟩ := idle_step s h
    simp only [runLoop, hu]
    split
    · exact ih u hi
    · exact ⟨s, rfl, h⟩

theorem test_witness_QuantumSplitting :
    (∀ k u, runLoop k { State.reset with budget := 1000 } = .next u → u.halted = false) ∧
    ∃ t, execute 400 State.reset = .next t ∧ Idle t := by
  refine ⟨fun k u h => ?_, idle_runLoop _ _ ⟨rfl, rfl, rfl, rfl⟩⟩
  obtain ⟨t, ht, hi⟩ := idle_runLoop k { State.reset with budget := 1000 } ⟨rfl, rfl, rfl, rfl⟩
  rw [ht] at h
  cases h
  exact hi.2.2.1

/-! ## The host's words, halting and the halted path (part 3 of the vectors) -/

theorem test_fetch_word :
    decodeTableWord 32 0xE0910002 = some (.addReg ⟨.al, true, 1#4, 0#4, 0#5, .lsl, 2#4⟩) ∧
    decodeTableWord 16 0x1888 = some (.tAddReg 2#3 1#3 0#3) ∧ decodeTableWord 32 0xE1200030 = none ∧
    decodeTableWord 16 0xBE00 = none ∧ (placed State.reset 16 0x1888).cpsr.t = true ∧
    wordAt (placed State.reset 32 0xE0910002).mem 0#32 = 0xE0910002#32 := by decide

/-- `STRB r0, [r1]` to the fixture's halt address (E1 to E3). -/
def haltStore (cpsr : Word) (line : Bool) : State :=
  placed { patch State.reset cpsr [(.r1, 0x04000301#32)] [] [] with
    pc := 0x8000#32
    plat := { Platform.none with haltWrites := [⟨0x04000301#32, 0#8, 0#8⟩], periphs := [{ quiet with level := line }] } }
    32 0xE5C10000

theorem test_halt_entry :
    ended (step (haltStore 0x1F#32 false)) (fun t => t.halted && t.pc == 0x8004#32) = true ∧
    ended (step (haltStore 0x10#32 false)) (fun t => !t.halted && t.pc == 0x8004#32) = true ∧
    ended (step (haltStore 0x9F#32 true)) (fun t => !t.halted && t.pc == 0x8004#32 && t.inspectCpsr == 0x9F#32) = true := by
  decide

/-- Halted at 0x8004 with the fixture `P(left)` and a budget (H1 to H5). -/
def asleep (cpsr : Word) (events : List Event) (budget : Int) : State :=
  { patch State.reset cpsr [] [] [] with
    pc := 0x8004#32
    halted := true
    budget := budget
    plat := { Platform.none with periphs := [{ quiet with events := events, elapsed := 0 }] } }

/-- Inside an access a device sees its own registers only and its bytes reach them only; inside a tick all do (R77). -/
theorem test_device_bytes :
    Memory.within (ownedBy device.windows) [(0x8000, 6#8), (0x04000000, 5#8), (0x040000FF, 4#8), (0x04000100, 7#8)] =
      [(0x04000000, 5#8), (0x040000FF, 4#8)] ∧
    Memory.pokes (ownedBy device.windows) [(0x04000000#32, 5#8), (0x8000#32, 6#8), (0x04000100#32, 7#8)] [] = [(0x04000000, 5#8)] ∧
    Memory.pokes (fun _ => true) [(0x8000#32, 6#8)] [] = [(0x8000, 6#8)] := by decide

/-- A known answer is triggered by a byte of the peripheral's own registers and by no other (R74, R77). -/
theorem test_known_answer :
    (busy.respond (writeRequest 0x04000000#32 .half 0x0001#32) (cellsOf 0x04000000#32 .half 0x0001#32) []) =
      ({ busy with level := false, events := [] }, [], false) ∧
    ({ busy with windows := [⟨0x8000#32, 0x8000#32⟩] }.respond (writeRequest 0x04000000#32 .byte 1#32)
      (cellsOf 0x04000000#32 .byte 1#32) []).1.level = true := by decide

/-- A tick runs the coming events it reaches, in order, up to one the device must be asked for (R452, R456). -/
theorem test_coming_events :
    runEvents [⟨2, .line true⟩, ⟨1, .poke 0x10#32 3#8⟩, ⟨4, .own⟩, ⟨1, .line false⟩] 9 false [] =
      ⟨[⟨1, .line false⟩], 2, true, [(0x10, 3#8)], true⟩ ∧
    runEvents [⟨5, .own⟩] 4 false [] = ⟨[⟨1, .own⟩], 4, false, [], false⟩ ∧ later [⟨0, .own⟩, ⟨0, .own⟩] = [⟨1, .own⟩, ⟨0, .own⟩] := by
  decide

theorem test_halted_path :
    ended (step (asleep 0x1F#32 [⟨100, .line true⟩] 100)) (fun t => t.budget == 0 && t.inspectCpsr == 0x92#32 && t.pc == 0x18#32 &&
      t.inspectSpsr .irq == 0x1F#32 && t.phys .r14irq == 0x8008#32 && !t.halted) = true ∧
    ended (step (asleep 0x9F#32 [⟨100, .line true⟩] 101)) (fun t => t.budget == 1 && t.inspectCpsr == 0x9F#32 &&
      t.pc == 0x8004#32 && !t.halted) = true ∧
    ended (step (asleep 0x1F#32 [⟨100, .line true⟩] 60)) (fun t => t.budget == 0 && t.halted && t.pc == 0x8004#32 &&
      t.plat.periphs.map Peripheral.nextEvent == [some 40]) = true ∧
    ended (step (asleep 0x1F#32 [] 500)) (fun t => t.budget == 0 && t.halted && t.pc == 0x8004#32) = true ∧
    ended (step (asleep 0x1F#32 [⟨0, .line true⟩] 3)) (fun t => t.budget == 2 && t.pc == 0x18#32 &&
      t.phys .r14irq == 0x8008#32) = true := by decide

end Sys2Proof.Tests
end

section
/-! The banks (R23, R24). Registers.lean says which register a write leaves; here is what each mode's column is, what the
written slot holds after a write, and what a slot reads after a change of the CPSR. -/

namespace Sys2Proof.Machine.Claims

/-- The slots 0 to 14 of a mode name the registers of its column of R23, in order. -/
theorem map_physReg_range (m : Mode) : (List.range 15).map (fun i => physReg m (BitVec.ofNat 4 i)) = bankOf m := by
  cases m <;> rfl

/-- A slot below 15 reads the physical register the bank map gives for the current mode (R23). -/
theorem readArm_of_ne {i : Reg} (h : i ≠ 15#4) (s : State) : readArm i s = s.phys (physReg s.cpsr.mode i) :=
  readReg_of_ne h 4#32 s

/-- A write of a slot below 15 reaches the physical register the bank map gives for the current mode (R23). -/
theorem phys_writeReg_same {i : Reg} (h : i ≠ 15#4) (v : Word) (s : State) :
    (writeReg i v s).phys (physReg s.cpsr.mode i) = v := by
  rw [writeReg_of_ne h, phys_setPhys_same]

/-- After a change of the CPSR a slot reads the register the new mode names, and that holds what it held before (R24). -/
theorem readArm_setCpsr {i : Reg} (h : i ≠ 15#4) (q : Cpsr) (s : State) :
    readArm i (s.setCpsr q) = s.phys (physReg q.mode i) := by
  rw [readArm_of_ne h, setCpsr_cpsr, phys_setCpsr]

/-- Settles O16: the columns of the bank map one mode at a time, then the register file as one store of physical registers, of
which a write sets one and the CPSR is no part. -/
theorem banks : Obligations.Banks := by
  refine ⟨map_physReg_range, rfl, fun s i v hi => ?_, fun s q => ?_⟩
  · exact ⟨readArm_of_ne hi s, rfl, phys_writeReg_same hi v s, fun _ hp => phys_writeReg_ne hp v⟩
  · exact ⟨fun p => phys_setCpsr q p s, fun b => spsr_setCpsr q b s, fun _ hi => readArm_setCpsr hi q s⟩

end Sys2Proof.Machine.Claims
end

section
/-! The bytes of plain memory (R62, R66): which of them a store puts where, and what a read of another width sees of them.
Devices.lean and Access.lean say what one access does to memory; here is what its value is. -/

namespace Sys2Proof.Machine.Claims

/-! ## Accesses that touch no device -/

/-- An access to some of the bytes of an unwatched one is unwatched (R74). -/
theorem Unwatched.of_subset {s : State} {a b : Word} {w u : Width} (h : Unwatched s a w)
    (hs : byteAddrs b u ⊆ byteAddrs a w) : Unwatched s b u := by
  simp only [Unwatched, watchedBy, List.any_eq_false] at h ⊢
  exact fun x hx => h x (hs hx)

/-- Whether a device is touched is not changed by a store (R77). -/
theorem unwatched_memWrite {s : State} {a b v : Word} {w u : Width} :
    Unwatched (memWrite a w v s) b u ↔ Unwatched s b u := by
  rw [Unwatched, memWrite_windows, Unwatched]

/-- The value of a read is what stands in memory when the devices have answered it (R62, R74). -/
theorem memRead_fst (a : Word) (w : Width) (s : State) : (memRead a w s).1 = (asked s a w).mem.load a w := rfl

theorem asked_mem_of_unwatched {s : State} {a : Word} {w : Width} (h : Unwatched s a w) : (asked s a w).mem = s.mem :=
  memRead_mem_of_unwatched a w s h

/-- A read that touches no device gives what stands in memory (R62, R66). -/
theorem memRead_fst_of_unwatched {s : State} {a : Word} {w : Width} (h : Unwatched s a w) :
    (memRead a w s).1 = s.mem.load a w := by
  rw [memRead_fst, asked_mem_of_unwatched h]

/-! ## Little-endian bytes (R66) -/

/-- In plain memory, where every bit may be written, the bytes of a stored value stand at their addresses. -/
theorem byteAt_memWrite {s : State} {a v : Word} {w : Width} (hwf : s.mem.wf = true) (hu : Unwatched s a w)
    (hmask : ∀ b ∈ byteAddrs a w, maskAt s.plat.writeMasks b.toNat = 0xFF#8) :
    ∀ c ∈ (byteAddrs a w).zip (valueBytes v w), byteAt (memWrite a w v s).mem c.1 = c.2 := by
  intro c hc
  rw [byteAt, memWrite_read a w v s hu hwf hc, hmask c.1 (mem_zip_byteAddrs hc)]
  exact maskedByte_allOnes _ _

/-- A byte that is eight bits of a value reads as them. -/
theorem toNat_load_byte {m : Memory} {a v : Word} {k : Nat} (h : byteAt m a = v.extractLsb' k 8) :
    (m.load a .byte).toNat = v.toNat / 2 ^ k % 2 ^ 8 := by
  show ((byteAt m a).setWidth 32).toNat = _
  rw [h, BitVec.toNat_setWidth_of_le (by decide), BitVec.extractLsb'_toNat, Nat.shiftRight_eq_div_pow]

/-- Two adjacent bytes that are sixteen adjacent bits of a value, lower ones first, read as these bits. -/
theorem toNat_load_half {m : Memory} {a v : Word} {k : Nat} (lo : byteAt m a = v.extractLsb' k 8)
    (hi : byteAt m (a + 1#32) = v.extractLsb' (k + 8) 8) : (m.load a .half).toNat = v.toNat / 2 ^ k % 2 ^ 16 := by
  show ((byteAt m (a + 1#32) ++ byteAt m a).setWidth 32).toNat = _
  rw [lo, hi, BitVec.extractLsb'_append_extractLsb'_eq_extractLsb' rfl, BitVec.toNat_setWidth_of_le (by decide),
    BitVec.extractLsb'_toNat, Nat.shiftRight_eq_div_pow]

/-- Four adjacent bytes that are the bytes of a value, lowest first, read as the value. -/
theorem load_word_of_bytes {m : Memory} {a v : Word} (b0 : byteAt m a = v.extractLsb' 0 8)
    (b1 : byteAt m (a + 1#32) = v.extractLsb' 8 8) (b2 : byteAt m (a + 2#32) = v.extractLsb' 16 8)
    (b3 : byteAt m (a + 3#32) = v.extractLsb' 24 8) : m.load a .word = v := by
  show wordAt m a = v
  rw [wordAt, b0, b1, b2, b3, BitVec.extractLsb'_append_extractLsb'_eq_extractLsb' (show 24 = 16 + 8 from rfl),
    BitVec.extractLsb'_append_extractLsb'_eq_extractLsb' (show 16 = 8 + 8 from rfl),
    BitVec.extractLsb'_append_extractLsb'_eq_extractLsb' (show 8 = 0 + 8 from rfl)]
  exact BitVec.extractLsb'_eq_self

/-- Settles O54: the stored bytes by `byteAt_memWrite`; then each read, whose bytes are some of these, by the lemma
of its width. -/
theorem littleEndianMemory : Obligations.LittleEndianMemory := by
  intro s a v hwf hu hmask
  refine ⟨fun _ => ?_, fun _ => ?_⟩
  · have bytes := byteAt_memWrite (v := v) hwf hu hmask
    simp only [byteAddrs, valueBytes, List.zip_cons_cons, List.zip_nil_left, List.forall_mem_cons] at bytes
    obtain ⟨b0, b1, b2, b3, -⟩ := bytes
    have hread {b u} (h : byteAddrs b u ⊆ byteAddrs a .word) := memRead_fst_of_unwatched
      (unwatched_memWrite.2 (hu.of_subset h) : Unwatched (memWrite a .word v s) b u)
    refine ⟨⟨b0, b1, b2, b3⟩, ?_, ?_, ?_, ?_, ?_⟩
    · rw [hread (List.Subset.refl _), load_word_of_bytes b0 b1 b2 b3]
    · rw [hread (by simp [byteAddrs]), toNat_load_half b0 b1, Nat.pow_zero, Nat.div_one]
    · rw [hread (by simp [byteAddrs, BitVec.add_assoc]), toNat_load_half b2 (by simpa [BitVec.add_assoc] using b3)]
      exact Nat.mod_eq_of_lt (by omega)
    · rw [hread (by simp [byteAddrs]), toNat_load_byte b0, Nat.pow_zero, Nat.div_one]
    · rw [hread (by simp [byteAddrs]), toNat_load_byte b1]
  · have hsub : byteAddrs a .half ⊆ byteAddrs a .word := by simp [byteAddrs]
    have hu' := hu.of_subset hsub
    have bytes := byteAt_memWrite (v := v) hwf hu' fun b hb => hmask b (hsub hb)
    simp only [byteAddrs, valueBytes, List.zip_cons_cons, List.zip_nil_left, List.forall_mem_cons] at bytes
    obtain ⟨b0, b1, -⟩ := bytes
    refine ⟨⟨b0, b1⟩, ?_⟩
    rw [memRead_fst_of_unwatched (unwatched_memWrite.2 hu'), toNat_load_half b0 b1, Nat.pow_zero, Nat.div_one]

end Sys2Proof.Machine.Claims
end

section
/-! Loads (R68, R69, R72): the one access each makes, and the value it makes of the bytes there, rotated or extended. -/

namespace Sys2Proof.Machine.Claims

/-! ## The bytes of a word and their rotation -/

/-- Four bytes as a word, byte 0 lowest (R66). -/
def wordOf (b : Nat → Byte) : Word := b 3 ++ b 2 ++ b 1 ++ b 0

/-- Bit `i` of a word lies in byte `i / 8`. -/
theorem getLsbD_wordOf (b : Nat → Byte) {i : Nat} (hi : i < 32) : (wordOf b).getLsbD i = (b (i / 8)).getLsbD (i % 8) := by
  have hq : i = 8 * (i / 8) + i % 8 := (Nat.div_add_mod i 8).symm
  have hr : i % 8 < 8 := Nat.mod_lt i (by decide)
  have hj : i / 8 < 4 := by omega
  generalize i / 8 = j at *
  generalize i % 8 = r at *
  subst hq
  simp only [wordOf, BitVec.getLsbD_append]
  interval_cases j
  · simp [hr]
  · simp [hr]
  · simp [show ¬ 16 + r < 8 by omega, show ¬ 16 + r - 8 < 8 by omega, show 16 + r - 8 - 8 = r by omega, hr]
  · simp [show ¬ 24 + r < 8 by omega, show ¬ 24 + r - 8 < 8 by omega, show ¬ 24 + r - 8 - 8 < 8 by omega,
      show 24 + r - 8 - 8 - 8 = r by omega]

/-- Bit `i` of a word rotated right is the one `n` places above, round the word (R164). -/
theorem getLsbD_ror (v : Word) {n i : Nat} (hn : n < 32) (hi : i < 32) :
    (ror v n).getLsbD i = v.getLsbD ((i + n) % 32) := by
  have e : ror v n = v.rotateRight n := by rw [BitVec.rotateRight_def, Nat.mod_eq_of_lt hn]; rfl
  rw [e, BitVec.getLsbD_rotateRight_of_lt hn]
  by_cases h : i < 32 - n
  · rw [Nat.mod_eq_of_lt (show i + n < 32 by omega), Nat.add_comm i]
    simp [h]
  · simp [h, hi, show (i + n) % 32 = i - (32 - n) by omega]

theorem ror_zero (v : Word) : ror v 0 = v := by simp [ror]

/-- Rotating a word right by bytes moves its bytes down, round the word (R68). -/
theorem ror_wordOf (b : Nat → Byte) {k : Nat} (hk : k < 4) : ror (wordOf b) (8 * k) = wordOf fun j => b ((j + k) % 4) := by
  refine BitVec.eq_of_getLsbD_eq fun i hi => ?_
  rw [getLsbD_ror _ (by omega) hi, getLsbD_wordOf _ (by omega), getLsbD_wordOf _ hi,
    show (i + 8 * k) % 32 / 8 = (i / 8 + k) % 4 by omega, show (i + 8 * k) % 32 % 8 = i % 8 by omega]

/-- Rotating by a byte moves the lowest byte to the top (R69). -/
theorem ror_append_byte (x : BitVec 24) (y : Byte) : ror (x ++ y) 8 = y ++ x := by
  refine BitVec.eq_of_getLsbD_eq fun i hi => ?_
  rw [getLsbD_ror _ (by decide) hi, BitVec.getLsbD_append, BitVec.getLsbD_append]
  by_cases h : i < 24
  · rw [if_neg (by omega), if_pos h, show (i + 8) % 32 - 8 = i by omega]
  · rw [if_pos (by omega), if_neg h, show (i + 8) % 32 = i - 24 by omega]

/-! ## Aligned addresses -/

theorem wordAligned_add (ea : Word) (j : Nat) :
    wordAligned ea + BitVec.ofNat 32 j = BitVec.ofNat 32 (ea.toNat / 4 * 4 + j) := by
  have h : (wordAligned ea).toNat = ea.toNat - ea.toNat % 4 := alignPc_toNat false ea
  apply BitVec.eq_of_toNat_eq
  simp only [BitVec.toNat_add, BitVec.toNat_ofNat]
  omega

theorem halfAligned_of_even {ea : Word} (h : ea.toNat % 2 = 0) : halfAligned ea = ea :=
  (alignPc_eq_self true ea).2 h

theorem halfAligned_of_odd {ea : Word} (h : ea.toNat % 2 = 1) : halfAligned ea = ea - 1#32 := by
  have e : (halfAligned ea).toNat = ea.toNat - ea.toNat % 2 := alignPc_toNat true ea
  bv_omega

/-! ## The value of a read, byte by byte (R62, R66) -/

theorem load_byte (m : Memory) (a : Word) : m.load a .byte = 0#24 ++ byteAt m a :=
  (BitVec.setWidth_eq_append (by decide)).trans (BitVec.cast_eq ..)

theorem load_half (m : Memory) (a : Word) : m.load a .half = 0#16 ++ byteAt m (a + 1#32) ++ byteAt m a := by
  show (byteAt m (a + 1#32) ++ byteAt m a).setWidth 32 = _
  rw [BitVec.setWidth_eq_append (by decide), BitVec.append_assoc]

theorem load_word_wordAligned (m : Memory) (ea : Word) : m.load (wordAligned ea) .word =
    wordOf fun j => byteAt m (BitVec.ofNat 32 (ea.toNat / 4 * 4 + j)) := by
  simp only [wordOf, ← wordAligned_add, BitVec.add_zero]
  rfl

/-! ## The value of each load (R68, R69, R263, R274) -/

theorem loadWord_fst (ea : Word) (s : State) :
    (loadWord ea s).1 = loadedValue (asked s (wordAligned ea) .word).mem .word ea := by
  have hk : (ea.extractLsb' 0 2).toNat = ea.toNat % 4 := by simp
  unfold loadWord
  dsimp only
  rw [memRead_fst, load_word_wordAligned, hk, ror_wordOf _ (Nat.mod_lt _ (by decide))]
  simp only [Nat.add_mod_mod, Nat.add_comm _ ea.toNat]
  rfl

theorem loadByte_fst (ea : Word) (s : State) : (loadByte ea s).1 = loadedValue (asked s ea .byte).mem .byte ea :=
  load_byte _ _

theorem loadSignedByte_fst (ea : Word) (s : State) :
    (loadSignedByte ea s).1 = loadedValue (asked s ea .byte).mem .signedByte ea := by
  show (((asked s ea .byte).mem.load ea .byte).extractLsb' 0 8).signExtend 32 = _
  rw [load_byte, BitVec.extractLsb'_append_eq_right]
  rfl

theorem loadHalf_fst (ea : Word) (s : State) :
    (loadHalf ea s).1 = loadedValue (asked s (halfAligned ea) .half).mem .half ea := by
  have hk : (ea.extractLsb' 0 1).toNat = ea.toNat % 2 := by simp
  unfold loadHalf loadedValue
  dsimp only
  rw [memRead_fst, load_half, hk]
  rcases Nat.mod_two_eq_zero_or_one ea.toNat with h | h
  · rw [h, if_neg (by decide), halfAligned_of_even h, Nat.mul_zero, ror_zero]
  · rw [h, if_pos rfl, halfAligned_of_odd h, BitVec.sub_add_cancel, ror_append_byte, BitVec.append_assoc]
    rfl

/-- At an odd address a signed halfword load is the signed byte load there (R69, U4). -/
theorem loadSignedHalf_of_odd {ea : Word} (h : ea.toNat % 2 = 1) (s : State) :
    loadSignedHalf ea s = loadSignedByte ea s :=
  if_pos (by rw [BitVec.getLsbD, Nat.testBit_zero, h, decide_eq_true rfl])

/-- At an even address a signed halfword load gives the two bytes there, sign-extended (R274). -/
theorem loadSignedHalf_of_even {ea : Word} (h : ea.toNat % 2 = 0) (s : State) : loadSignedHalf ea s =
    ((byteAt (asked s ea .half).mem (ea + 1#32) ++ byteAt (asked s ea .half).mem ea).signExtend 32, asked s ea .half) := by
  rw [loadSignedHalf, if_neg (by rw [BitVec.getLsbD, Nat.testBit_zero, h]; decide)]
  dsimp only
  rw [memRead_fst, load_half, BitVec.append_assoc, BitVec.cast_eq, BitVec.extractLsb'_append_eq_right]
  rfl

/-! ## One load -/

/-- A load makes the one access of its kind and address. -/
theorem loadAt_snd (k : LoadKind) (ea : Word) (s : State) :
    (loadAt k ea s).2 = asked s (loadAccess k ea).addr (loadAccess k ea).width := by
  cases k
  case signedHalf =>
    unfold loadAt loadAccess
    rcases Nat.mod_two_eq_zero_or_one ea.toNat with h | h
    · simp only [loadSignedHalf_of_even h, h, if_neg (by decide : ¬ 0 = 1)]
    · simp only [loadSignedHalf_of_odd h, h, if_pos]
      rfl
  all_goals rfl

/-- A load gives its value from what stands in memory when the devices have answered its access (R68, R69). -/
theorem loadAt_fst (k : LoadKind) (ea : Word) (s : State) : (loadAt k ea s).1 = loaded s k ea := by
  cases k
  case word => exact loadWord_fst ea s
  case byte => exact loadByte_fst ea s
  case half => exact loadHalf_fst ea s
  case signedByte => exact loadSignedByte_fst ea s
  case signedHalf =>
    unfold loaded loadedValue loadAccess
    rcases Nat.mod_two_eq_zero_or_one ea.toNat with h | h
    · simp only [loadAt, loadSignedHalf_of_even h, h, if_neg (by decide : ¬ 0 = 1)]
    · simp only [loadAt, loadSignedHalf_of_odd h, h, if_pos]
      exact loadSignedByte_fst ea s

theorem oneRead_asked (s : State) (a : Word) (w : Width) : OneRead s (asked s a w) a w :=
  ⟨⟨rfl, rfl, rfl⟩, memRead_lastAccess a w s, fun h n => by rw [asked_mem_of_unwatched h],
    fun _ h => memRead_read_ne a w s h⟩

/-- Settles O36: the value and the access by `loadAt_fst` and `loadAt_snd`; in plain memory the access leaves memory as it is, so
the value is of the bytes there; the rest is what one read does. -/
theorem loadValues : Obligations.LoadValues := by
  intro k ea s x a
  have hx : x.2 = asked s a.addr a.width := loadAt_snd k ea s
  refine ⟨loadAt_fst k ea s, fun h => ?_, hx, hx ▸ oneRead_asked s a.addr a.width, ?_, ?_, ?_⟩
  · rw [← asked_mem_of_unwatched h]
    exact loadAt_fst k ea s
  all_goals rw [hx, asked]
  · exact memRead_regs ..
  · exact memRead_cpsr ..
  · exact memRead_stepCost ..

end Sys2Proof.Machine.Claims
end

section
/-! The adder (R166): its result, carry and overflow as integers, and what a subtraction, which adds the complement, makes of
them. -/

namespace Sys2Proof.Machine.Claims

theorem toNat_addWithCarry (a b : Word) (c : Bool) :
    (addWithCarry a b c).r.toNat = (a.toNat + b.toNat + c.toNat) % 2 ^ 32 := BitVec.toNat_ofNat _ _

theorem addWithCarry_c (a b : Word) (c : Bool) :
    (addWithCarry a b c).c = true ↔ 2 ^ 32 ≤ a.toNat + b.toNat + c.toNat := decide_eq_true_iff

/-- R166's own text: the operands have one sign and the result has the other. -/
theorem addWithCarry_v (a b : Word) (c : Bool) :
    (addWithCarry a b c).v = true ↔ a.msb = b.msb ∧ (addWithCarry a b c).r.msb ≠ a.msb := by
  simp [addWithCarry]

/-- Overflow is a sum of the signed values outside the signed range. -/
theorem addWithCarry_v_iff_range (a b : Word) (c : Bool) : (addWithCarry a b c).v = true ↔
    a.toInt + b.toInt + c.toNat < -2 ^ 31 ∨ 2 ^ 31 ≤ a.toInt + b.toInt + c.toNat := by
  have ha := a.isLt
  have hb := b.isLt
  have hc := c.toNat_le
  simp only [addWithCarry_v, BitVec.msb_eq_decide, toNat_addWithCarry, decide_eq_decide, ne_eq, BitVec.toInt_eq_toNat_cond]
  split <;> split <;> omega

/-- The sum modulo 2^32, its carry in written by the complement as R166 writes it: `1 - NOT C`. -/
theorem addWithCarry_r (a b : Word) (c : Bool) :
    (addWithCarry a b c).r = a + b + (1#32 - if c then 0#32 else 1#32) := by
  apply BitVec.eq_of_toNat_eq
  rw [toNat_addWithCarry]
  cases c <;> simp

/-! ## Subtraction -/

/-- `a - b - NOT c`. -/
theorem addWithCarry_not_r (a b : Word) (c : Bool) :
    (addWithCarry a (~~~b) c).r = a - b - if c then 0#32 else 1#32 := by
  apply BitVec.eq_of_toNat_eq
  rw [toNat_addWithCarry, BitVec.toNat_not]
  cases c <;> simp <;> omega

theorem addWithCarry_not_true_r (a b : Word) : (addWithCarry a (~~~b) true).r = a - b :=
  (addWithCarry_not_r a b true).trans (BitVec.sub_zero _)

/-- C after a subtraction is "no borrow". -/
theorem addWithCarry_not_c (a b : Word) (c : Bool) :
    (addWithCarry a (~~~b) c).c = true ↔ b.toNat + (if c then 0#32 else 1#32).toNat ≤ a.toNat := by
  rw [addWithCarry_c, BitVec.toNat_not]
  have hb := b.isLt
  cases c <;> simp <;> omega

/-- Settles O13: the adder's own facts, then its uses, the subtractions by what adding the complement gives. -/
theorem adderIsExact : Obligations.AdderIsExact := by
  refine ⟨fun a b c => ⟨toNat_addWithCarry a b c, addWithCarry_c a b c, addWithCarry_v_iff_range a b c,
      addWithCarry_v a b c⟩,
    fun a b sc p => ⟨?_, rfl, addWithCarry_r a b p.c, ?_, rfl, addWithCarry_not_r a b p.c, ?_, addWithCarry_not_r b a p.c,
      ?_, ?_, addWithCarry_not_c a b p.c, addWithCarry_not_c b a p.c⟩⟩
  · exact (addWithCarry_r a b false).trans (BitVec.add_zero _)
  · exact addWithCarry_not_true_r a b
  · exact addWithCarry_not_true_r b a
  · exact addWithCarry_not_c a b true
  · exact addWithCarry_not_c b a true

end Sys2Proof.Machine.Claims
end

section
/-! The condition table (R155), and what each condition means after a compare. -/

namespace Sys2Proof.Machine.Claims

/-! ## The flags of a compare -/

theorem withResult_aluCmp_n (p : Cpsr) (a b : Word) :
    (p.withResult (aluCmp a b false p)).n = decide ((a - b).toInt < 0) := by
  show (addWithCarry a (~~~b) true).r.msb = _
  rw [addWithCarry_not_true_r, BitVec.msb_eq_toInt]

theorem withResult_aluCmp_z (p : Cpsr) (a b : Word) : (p.withResult (aluCmp a b false p)).z = decide (a = b) := by
  show ((addWithCarry a (~~~b) true).r == 0#32) = _
  rw [addWithCarry_not_true_r, beq_eq_decide, decide_eq_decide]
  bv_omega

theorem withResult_aluCmp_c (p : Cpsr) (a b : Word) :
    (p.withResult (aluCmp a b false p)).c = decide (b.toNat ≤ a.toNat) := by
  rw [Bool.eq_iff_iff, decide_eq_true_iff]
  exact addWithCarry_not_c a b true

theorem withResult_aluCmp_v (p : Cpsr) (a b : Word) :
    (p.withResult (aluCmp a b false p)).v = decide (a.toInt - b.toInt ≠ (a - b).toInt) := by
  rw [Bool.eq_iff_iff, decide_eq_true_iff]
  refine (addWithCarry_v_iff_range a (~~~b) true).trans ?_
  have ha := a.isLt
  have hb := b.isLt
  simp only [BitVec.toInt_eq_toNat_cond, BitVec.toNat_not, BitVec.toNat_sub, Bool.toNat_true]
  split <;> split <;> split <;> split <;> omega

/-- N and V agree after a compare exactly where the first operand is not the smaller one. -/
theorem withResult_aluCmp_n_eq_v (p : Cpsr) (a b : Word) :
    (p.withResult (aluCmp a b false p)).n = (p.withResult (aluCmp a b false p)).v ↔ b.toInt ≤ a.toInt := by
  rw [withResult_aluCmp_n, withResult_aluCmp_v, decide_eq_decide, BitVec.toInt_sub, Int.bmod_def]
  have ha := a.toInt_lt
  have hb := b.toInt_lt
  have ha' := a.le_toInt
  have hb' := b.le_toInt
  split <;> omega

/-- Settles O12: the table as the definition gives it; after a compare, each flag as what it says of the operands. -/
theorem conditionTable : Obligations.ConditionTable := by
  refine ⟨fun p => ?_, fun p a b => ?_⟩
  · simp [condPassed]
  · intro q
    have hn : q.n = decide ((a - b).toInt < 0) := withResult_aluCmp_n p a b
    have hz : q.z = decide (a = b) := withResult_aluCmp_z p a b
    have hc : q.c = decide (b.toNat ≤ a.toNat) := withResult_aluCmp_c p a b
    have hv : q.v = decide (a.toInt - b.toInt ≠ (a - b).toInt) := withResult_aluCmp_v p a b
    have hnv : q.n = q.v ↔ b.toInt ≤ a.toInt := withResult_aluCmp_n_eq_v p a b
    simp only [condPassed, Bool.and_eq_true, Bool.or_eq_true, Bool.not_eq_true', beq_iff_eq, bne_iff_ne, ne_eq, hnv]
    simp only [hn, hz, hc, hv, decide_eq_true_eq, decide_eq_false_iff_not, ne_eq, not_not, not_le, not_lt, true_and]
    -- Left are the four that join Z to an order: equal words are equal values, unsigned and signed.
    refine ⟨?hi, ?ls, ?gt, ?le⟩
    case hi => rw [← BitVec.toNat_inj]; omega
    case ls => rw [← BitVec.toNat_inj]; omega
    case gt => rw [← BitVec.toInt_inj]; omega
    case le => rw [← BitVec.toInt_inj]; omega

end Sys2Proof.Machine.Claims
end

section
/-! The barrel shifter (R164, R165), bit by bit: for each kind of shift, where a bit of the result comes from. The register form
takes amounts of 32 and more, and `shiftReg_lsl` to `shiftReg_ror` say that they are no case of their own. -/

namespace Sys2Proof.Machine.Claims

/-! ## Where a bit comes from -/

theorem getLsbD_lsl (m : Word) (n : Nat) {k : Nat} (hk : k < 32) :
    (m <<< n).getLsbD k = (decide (n ≤ k) && m.getLsbD (k - n)) := by
  simp only [BitVec.getLsbD_shiftLeft, hk, decide_true, Bool.true_and, ← decide_not, not_lt]

theorem getLsbD_lsr (m : Word) (n k : Nat) : (m >>> n).getLsbD k = m.getLsbD (k + n) := by
  rw [BitVec.getLsbD_ushiftRight, Nat.add_comm]

theorem msb_eq_getLsbD (m : Word) : m.msb = m.getLsbD 31 := m.msb_eq_getLsbD_last

/-- An arithmetic shift right fills with copies of the top bit. -/
theorem getLsbD_asr (m : Word) (n : Nat) {k : Nat} (hk : k < 32) :
    (m.sshiftRight n).getLsbD k = m.getLsbD (min (k + n) 31) := by
  rw [BitVec.getLsbD_sshiftRight, Nat.add_comm n, msb_eq_getLsbD]
  by_cases h : k + n < 32
  · simp [h, hk, show min (k + n) 31 = k + n by omega]
  · simp [h, hk, show min (k + n) 31 = 31 by omega]

/-- Shifted by the whole width, a word is copies of its top bit. -/
theorem sshiftRight_width (m : Word) : m.sshiftRight 32 = if m.msb then 0xFFFFFFFF#32 else 0#32 := by
  cases h : m.msb
  · rw [BitVec.sshiftRight_eq_of_msb_false h, BitVec.ushiftRight_eq_zero (le_refl 32)]
    rfl
  · rw [BitVec.sshiftRight_eq_of_msb_true h, BitVec.ushiftRight_eq_zero (le_refl 32)]
    rfl

/-- RRX: the carry comes in at the top. -/
theorem getLsbD_rrx (m : Word) (c : Bool) {k : Nat} (hk : k < 32) :
    (BitVec.ofBool c ++ m.extractLsb' 1 31).getLsbD k = if k = 31 then c else m.getLsbD (k + 1) := by
  rw [BitVec.getLsbD_append, BitVec.getLsbD_extractLsb', BitVec.getLsbD_ofBool]
  by_cases h : k = 31
  · simp [h]
  · simp [h, show k < 31 by omega, Nat.add_comm]

/-! ## The shift by an immediate amount -/

/-- Settles O14: the immediate operand and each shift by 1 to 31 by the lemma on its bits, the amount 0 as R164 reads it. -/
theorem shiftByImmediate : Obligations.ShiftByImmediate := by
  refine ⟨fun rotate imm8 cin => ⟨fun k hk => ?_, ?_⟩, fun n m cin k hk => ⟨?zero, fun hn => ?_⟩⟩
  · exact getLsbD_ror _ (by have := rotate.isLt; omega) hk
  · rw [← msb_eq_getLsbD]
    rfl
  case zero =>
    rintro rfl
    rw [← msb_eq_getLsbD, ← sshiftRight_width]
    exact ⟨rfl, rfl, rfl, getLsbD_rrx m cin hk, rfl⟩
  · have h0 : n.toNat ≠ 0 := fun h => hn (BitVec.eq_of_toNat_eq h)
    simp only [shiftImm, if_neg h0, true_and, and_true]
    exact ⟨getLsbD_lsl m _ hk, getLsbD_lsr m _ k, getLsbD_asr m _ hk, getLsbD_ror m n.isLt hk⟩

/-! ## The shift by the low byte of a register -/

section
variable {n : Byte} (h0 : n.toNat ≠ 0) (m : Word) (cin : Bool)
include h0

theorem shiftReg_lsl : shiftReg .lsl n m cin = (m <<< n.toNat, decide (n.toNat ≤ 32) && m.getLsbD (32 - n.toNat)) := by
  simp only [shiftReg, if_neg h0]
  by_cases h : n.toNat < 32
  · simp [h, Nat.le_of_lt h]
  · rw [if_neg h, BitVec.shiftLeft_eq_zero (Nat.le_of_not_lt h)]
    by_cases h' : n.toNat = 32
    · simp [h']
    · simp [h', show ¬ n.toNat ≤ 32 by omega]

theorem shiftReg_lsr : shiftReg .lsr n m cin = (m >>> n.toNat, m.getLsbD (n.toNat - 1)) := by
  simp only [shiftReg, if_neg h0]
  by_cases h : n.toNat < 32
  · rw [if_pos h]
  · rw [if_neg h, BitVec.ushiftRight_eq_zero (Nat.le_of_not_lt h)]
    by_cases h' : n.toNat = 32
    · simp [h', msb_eq_getLsbD]
    · simp [h', BitVec.getLsbD_of_ge m (n.toNat - 1) (by omega)]

theorem shiftReg_asr : shiftReg .asr n m cin = (m.sshiftRight n.toNat, m.getLsbD (min (n.toNat - 1) 31)) := by
  simp only [shiftReg, if_neg h0]
  by_cases h : n.toNat < 32
  · rw [if_pos h, show min (n.toNat - 1) 31 = n.toNat - 1 by omega]
  · rw [if_neg h, show min (n.toNat - 1) 31 = 31 by omega, msb_eq_getLsbD]
    congr 1
    refine BitVec.eq_of_getLsbD_eq fun k hk => ?_
    rw [getLsbD_asr m _ hk, getLsbD_asr m _ hk, show min (k + 32) 31 = min (k + n.toNat) 31 by omega]

theorem shiftReg_ror : shiftReg .ror n m cin = (ror m (n.toNat % 32), m.getLsbD ((n.toNat + 31) % 32)) := by
  simp only [shiftReg, if_neg h0]
  by_cases h : n.toNat % 32 = 0
  · rw [if_pos h, h, ror_zero, show (n.toNat + 31) % 32 = 31 by omega, msb_eq_getLsbD]
  · rw [if_neg h, show (n.toNat + 31) % 32 = n.toNat % 32 - 1 by omega]

end

/-- Settles O15: each shift by the lemma that gives it as one expression for all amounts but 0, then bit by bit. -/
theorem shiftByRegister : Obligations.ShiftByRegister := by
  refine ⟨fun n m cin k hk => ⟨fun hn type => ?_, fun hn => ?_⟩, fun v => ?_, fun s cur h => ?_⟩
  · exact if_pos hn
  · rw [shiftReg_lsl hn, shiftReg_lsr hn, shiftReg_asr hn, shiftReg_ror hn]
    refine ⟨getLsbD_lsl m _ hk, rfl, getLsbD_lsr m _ k, rfl, getLsbD_asr m _ hk, rfl, ?_, rfl⟩
    rw [getLsbD_ror m (Nat.mod_lt _ (by decide)) hk, Nat.add_mod_mod]
  · rw [lowByte, BitVec.extractLsb'_toNat, Nat.shiftRight_zero]
  · rw [readArm12, readReg_pc, h, BitVec.add_assoc]
    rfl

end Sys2Proof.Machine.Claims
end

section
/-! The condition field (R102 to R125, R153, R154): an instruction decoded from an ARM word has that of the word, one from a THUMB
halfword has none; the lemmas follow the decode trees of R128 and R129. The meaning of an instruction that has one is guarded by
it. -/

namespace Sys2Proof.Machine.Claims

theorem cond_ite {p : Prop} [Decidable p] {i j : Instr} {c : Option Cond} (hi : i.cond = c) (hj : j.cond = c) :
    (if p then i else j).cond = c := by
  split
  · exact hi
  · exact hj

/-! ## ARM words -/

theorem cond_decodeDpImm (x : Word) : (decodeDpImm x).cond = some (condOf x) := by
  fun_cases decodeDpImm x <;> rfl

theorem cond_decodeDpReg (x : Word) : (decodeDpReg x).cond = some (condOf x) := by
  fun_cases decodeDpReg x <;> rfl

theorem cond_decodeDpRsr (x : Word) : (decodeDpRsr x).cond = some (condOf x) := by
  fun_cases decodeDpRsr x <;> rfl

theorem cond_decodeSdtImm (x : Word) : (decodeSdtImm x).cond = some (condOf x) := by
  fun_cases decodeSdtImm x <;> rfl

theorem cond_decodeSdtReg (x : Word) : (decodeSdtReg x).cond = some (condOf x) := by
  fun_cases decodeSdtReg x <;> rfl

theorem cond_decodeBlock (x : Word) : (decodeBlock x).cond = some (condOf x) := by
  fun_cases decodeBlock x <;> rfl

theorem cond_decodeHigh (x : Word) : (decodeHigh x).cond = some (condOf x) := by
  fun_cases decodeHigh x <;> rfl

theorem cond_of_decodeMisc {x : Word} {i : Instr} (h : decodeMisc x = .ok i) : i.cond = some (condOf x) := by
  revert h
  fun_cases decodeMisc x <;> rintro ⟨⟩ <;> rfl

theorem cond_of_decodeExtension {x : Word} {i : Instr} (h : decodeExtension x = .ok i) : i.cond = some (condOf x) := by
  revert h
  fun_cases decodeExtension x
  all_goals rintro ⟨⟩
  all_goals repeat' split
  all_goals rfl

/-- The condition of an instruction decoded from an ARM word is the word's condition field (R153). -/
theorem cond_of_decodeArm {x : Word} {i : Instr} (h : decodeArm x = .ok i) : i.cond = some (condOf x) := by
  revert h
  fun_cases decodeArm x
  case case1 => exact cond_of_decodeExtension
  case case2 => exact cond_of_decodeMisc
  all_goals rintro ⟨⟩
  · exact cond_ite (cond_decodeDpRsr x) (cond_decodeDpReg x)
  · rfl
  · exact cond_decodeDpImm x
  · exact cond_decodeSdtImm x
  · exact cond_ite rfl (cond_decodeSdtReg x)
  · exact cond_decodeBlock x
  · exact cond_ite rfl rfl
  · exact cond_ite rfl rfl
  · exact cond_decodeHigh x

/-! ## THUMB halfwords -/

theorem cond_decodeThumb000 (h : Half) : (decodeThumb000 h).cond = none := by
  fun_cases decodeThumb000 h <;> rfl

theorem cond_decodeThumb001 (h : Half) : (decodeThumb001 h).cond = none := by
  fun_cases decodeThumb001 h <;> rfl

theorem cond_decodeThumbAlu (h : Half) : (decodeThumbAlu h).cond = none := by
  fun_cases decodeThumbAlu h <;> rfl

theorem cond_decodeThumbRegOffset (h : Half) : (decodeThumbRegOffset h).cond = none := by
  fun_cases decodeThumbRegOffset h <;> rfl

theorem cond_decodeThumbImmOffset (h : Half) : (decodeThumbImmOffset h).cond = none := by
  fun_cases decodeThumbImmOffset h <;> rfl

theorem cond_decodeThumb100 (h : Half) : (decodeThumb100 h).cond = none := by
  fun_cases decodeThumb100 h <;> rfl

theorem cond_decodeThumbCond (h : Half) : (decodeThumbCond h).cond = none := by
  fun_cases decodeThumbCond h <;> rfl

theorem cond_decodeThumb110 (h : Half) : (decodeThumb110 h).cond = none :=
  cond_ite (cond_decodeThumbCond h) (cond_ite rfl rfl)

theorem cond_of_decodeThumbHigh {h : Half} {i : Instr} (e : decodeThumbHigh h = .ok i) : i.cond = none := by
  revert e
  fun_cases decodeThumbHigh h
  all_goals rintro ⟨⟩
  · rfl
  · rfl
  · exact cond_ite rfl rfl

theorem cond_of_decodeThumb010 {h : Half} {i : Instr} (e : decodeThumb010 h = .ok i) : i.cond = none := by
  revert e
  fun_cases decodeThumb010 h
  case case3 => exact cond_of_decodeThumbHigh
  all_goals rintro ⟨⟩
  · exact cond_decodeThumbRegOffset h
  · rfl
  · exact cond_decodeThumbAlu h

theorem cond_of_decodeThumb101 {h : Half} {i : Instr} (e : decodeThumb101 h = .ok i) : i.cond = none := by
  revert e
  fun_cases decodeThumb101 h
  all_goals rintro ⟨⟩
  all_goals exact cond_ite rfl rfl

theorem cond_of_decodeThumb111 {h : Half} {i : Instr} (e : decodeThumb111 h = .ok i) : i.cond = none := by
  revert e
  fun_cases decodeThumb111 h
  all_goals rintro ⟨⟩
  · exact cond_ite rfl rfl
  · rfl

/-- An instruction decoded from a THUMB halfword has no condition field (R154). -/
theorem cond_of_decodeThumb {h : Half} {i : Instr} (e : decodeThumb h = .ok i) : i.cond = none := by
  revert e
  fun_cases decodeThumb h
  case case3 => exact cond_of_decodeThumb010
  case case6 => exact cond_of_decodeThumb101
  case case8 => exact cond_of_decodeThumb111
  all_goals rintro ⟨⟩
  · exact cond_decodeThumb000 h
  · exact cond_decodeThumb001 h
  · exact cond_decodeThumbImmOffset h
  · exact cond_decodeThumb100 h
  · exact cond_decodeThumb110 h

/-! ## The meaning of an instruction with a condition field -/

/-- It is guarded by its condition (R154). -/
theorem exec_eq_guarded {i : Instr} {c : Cond} (h : i.cond = some c) : ∃ body, ∀ s, exec i s = guarded c body s := by
  cases i <;> cases h
  all_goals exact ⟨_, fun _ => rfl⟩

theorem exec_of_cond_failed {i : Instr} {c : Cond} {s : State} (h : i.cond = some c) (hc : condPassed c s.cpsr = false) :
    exec i s = .next s := by
  obtain ⟨body, e⟩ := exec_eq_guarded h
  rw [e, guarded_failed body hc]

end Sys2Proof.Machine.Claims
end

section
/-! The step of an awake core (R150 to R157): what the fetch leaves, what runs in the state it leaves, and the two ways a step can
end without an instruction's effect: an Undefined exception, and nothing. -/

namespace Sys2Proof.Machine.Claims

/-! ## The fetch (R151, R152) -/

/-- The fetch is one read, its cost and the advance of pc; what the step's cost was before plays no part. -/
theorem fetched_fetch (s : State) : Fetched s (fetch s).2 := by
  have hpc : s.pc + BitVec.ofNat 32 (codeWidth s).bytes = BitVec.ofNat 32 (s.pc.toNat + (codeWidth s).bytes) := by
    rw [BitVec.ofNat_add, BitVec.ofNat_toNat, BitVec.setWidth_eq]
  refine ⟨oneRead_asked s s.pc (codeWidth s), ?_⟩
  rw [← hpc, ← Nat.zero_add (accessCycles s _)]
  rfl

/-- What the fetch gives to the decoder is the instruction at pc (R67, R151, R153). -/
theorem lookup_fetch (s : State) : lookup (fetch s).2.cpsr.t (fetch s).1 = decode (codeAt s) := by
  rw [fetch_cpsr, fetch_value, memRead_fst]
  unfold lookup codeAt codeIn codeWidth instrWidth
  cases s.cpsr.t
  case false => rfl
  case true => exact congrArg (decode ∘ Code.thumb) (BitVec.setWidth_setWidth_of_le _ (by decide))

theorem condOf_fetch {s : State} (h : s.cpsr.t = false) : condOf (fetch s).1 = fetchedCond s := by
  rw [fetch_value, h]
  rfl

/-- Register 15 as an operand reads a fixed distance above the address after the fetched instruction (R27, R152). -/
theorem readReg_pc_fetch (k : Word) (s : State) :
    readReg k 15#4 (fetch s).2 = s.pc + (BitVec.ofNat 32 (if s.cpsr.t then 2 else 4) + k) := by
  rw [readReg_pc, fetch_pc, instrWidth_bytes, BitVec.add_assoc]

/-! ## What runs after it (R153, R154, R156) -/

theorem step_awake {s : State} (h : s.halted = false) : step s = andThen (executeFetched (fetch s)) completeStep := by
  rw [step, h]
  rfl

theorem executeFetched_of_row {s : State} {i : Instr} (h : decode (codeAt s) = .ok i) :
    executeFetched (fetch s) = exec i (fetch s).2 := by
  rw [executeFetched, lookup_fetch, h]

theorem executeFetched_of_noRow {s : State} (h : ∀ i, decode (codeAt s) ≠ .ok i) :
    executeFetched (fetch s) = takeNoRow (fetch s).1 (fetch s).2 := by
  unfold executeFetched
  rw [lookup_fetch]
  split
  · next i hi => exact absurd hi (h i)
  · rfl

theorem takeNoRow_of_passed {x : Word} {s : State} (h : s.cpsr.t = false → condPassed (condOf x) s.cpsr = true) :
    takeNoRow x s = takeUndefined s := by
  unfold takeNoRow
  split
  · rfl
  · next ht => exact guarded_passed _ (h (Bool.not_eq_true _ ▸ ht))

theorem takeNoRow_of_failed {x : Word} {s : State} (ht : s.cpsr.t = false) (h : condPassed (condOf x) s.cpsr = false) :
    takeNoRow x s = .next s := by
  rw [takeNoRow, ht]
  exact guarded_failed _ h

/-- A word whose condition fails does nothing, whether it has a row or not (R154). -/
theorem executeFetched_of_cond_failed {s : State} (ht : s.cpsr.t = false) (h : condPassed (fetchedCond s) s.cpsr = false) :
    executeFetched (fetch s) = .next (fetch s).2 := by
  have hc : condPassed (condOf (fetch s).1) (fetch s).2.cpsr = false := by rwa [condOf_fetch ht]
  by_cases hrow : ∃ i, decode (codeAt s) = .ok i
  · obtain ⟨i, hi⟩ := hrow
    have hf : decodeArm (fetch s).1 = .ok i := by
      rw [← hi, ← lookup_fetch, fetch_cpsr, ht]
      rfl
    rw [executeFetched_of_row hi, exec_of_cond_failed (cond_of_decodeArm hf) hc]
  · rw [executeFetched_of_noRow (not_exists.1 hrow)]
    exact takeNoRow_of_failed (s := (fetch s).2) ht hc

/-! ## Exception entry (R156, R505) -/

theorem enters_enterException (cls : ExcClass) (ret : Word) (s : State) :
    Enters s (enterException cls ret s) (excMode cls) (vectorOf cls) ret (lrAdjust cls) (setsF cls) := by
  refine ⟨enterException_cpsr cls ret s, ?_, fun b hb => ?_, ?_, fun p hp => ?_, enterException_pc cls ret s, fun a => ?_,
    enterException_lastAccess cls ret s, enterException_halted cls ret s, enterException_budget cls ret s⟩
  · rw [spsr_enterException, if_pos rfl]
    rfl
  · rw [spsr_enterException, if_neg hb]
  · rw [phys_enterException, if_pos rfl]
  · rw [phys_enterException, if_neg hp]
  · rw [enterException_mem]

/-- The trap row costs no internal cycle (R311). -/
theorem takeUndefined_eq (s : State) : takeUndefined s = .next (enterException .undefined s.pc s) := rfl

/-! ## The end of the step (R157, R161) -/

/-- Where no rule wrote pc, no refill is charged. -/
theorem completeStep_of_unmarked {s : State} (h : s.wrotePc = false) : completeStep s = account (boundaryCheck s) := by
  rw [completeStep, chargeRefill, h]
  rfl

/-! ## The instruction that neither writes pc nor raises (R152) -/

theorem pc_of_plain_unmarked {s t : State} (h : Plain s t) (unmarked : t.wrotePc = false) : t.pc = s.pc :=
  by_contra fun hne => by simp [h.mark hne] at unmarked

theorem exceptionReturn_wrotePc {v : Word} {s t : State} (h : exceptionReturn v s = .next t) : t.wrotePc = true := by
  rcases exceptionReturn_next h with ⟨-, rfl⟩ | ⟨b, p, -, -, rfl⟩
  · rfl
  · rfl

theorem msr_wrotePc {r : Bool} {m : BitVec 4} {v : Word} {s t : State} (h : msr r m v s = .next t) :
    t.wrotePc = s.wrotePc := by
  unfold msr at h
  split at h
  · obtain rfl := Host.Outcome.next.inj h
    unfold msrSpsr
    split <;> simp
  · obtain ⟨p, -, rfl⟩ := msrCpsr_next h
    rfl

/-! ## The statements -/

/-- Settles O10: the fetch selects no row and the condition passes, so Undefined is entered; the entry leaves no mark, so only
its own refill is charged. -/
theorem wordsWithNoRowAreUndefined : Obligations.WordsWithNoRowAreUndefined := by
  intro s awake noRow passed
  have passed' (ht : s.cpsr.t = false) : condPassed (condOf (fetch s).1) (fetch s).2.cpsr = true := by
    rw [condOf_fetch ht]
    exact passed ht
  have unmarked : (enterException .undefined (fetch s).2.pc (fetch s).2).wrotePc = false := by simp
  refine ⟨(fetch s).2, enterException .undefined (fetch s).2.pc (fetch s).2, fetched_fetch s,
    enters_enterException .undefined _ _, enterException_plat .., unmarked, enterException_stepCost .., ?_⟩
  rw [step_awake awake, executeFetched_of_noRow noRow, takeNoRow_of_passed (s := (fetch s).2) passed', takeUndefined_eq,
    andThen_next_eq, completeStep_of_unmarked unmarked]

/-- Settles O11: the step by `executeFetched_of_cond_failed`, and the fetch leaves no mark; the instructions by their guards;
THUMB by its decode tree. -/
theorem failedConditionDoesNothing : Obligations.FailedConditionDoesNothing := by
  refine ⟨fun s awake arm failed => ⟨(fetch s).2, fetched_fetch s, ?_⟩, fun i c s => exec_of_cond_failed,
    fun h i => cond_of_decodeThumb⟩
  rw [step_awake awake, executeFetched_of_cond_failed arm failed, andThen_next_eq, completeStep_of_unmarked rfl]

/-- Settles O9: the fetch sets pc. Of what an instruction can do after it (`Acts`), a plain act that moves pc leaves the mark, as
do BX and a return; MSR leaves pc alone. -/
theorem pcAdvancesBeforeExecution : Obligations.PcAdvancesBeforeExecution := by
  refine ⟨fun s => ⟨?_, fun ht => ?_, fun ht => ?_⟩, fun i s t e unmarked quiet => ?_⟩
  · rw [fetch_pc, instrWidth_bytes, BitVec.toNat_add, BitVec.toNat_ofNat, Nat.add_mod_mod]
  · rw [readArm, readReg_pc_fetch, ht]
    rfl
  · rw [readThumb, readReg_pc_fetch, ht]
    rfl
  · rcases exec_acts e with h | ⟨raises, -⟩ | ⟨-, v, u, -, rfl⟩ | ⟨-, v, u, -, ht⟩ | ⟨-, sp, m, v, u, h, ht⟩
    · exact pc_of_plain_unmarked h unmarked
    · exact absurd raises (by simp [quiet])
    · exact absurd unmarked (by simp [branchExchange])
    · exact absurd (exceptionReturn_wrotePc ht) (by simp [unmarked])
    · exact (msr_pc ht).1.trans (pc_of_plain_unmarked h (msr_wrotePc ht ▸ unmarked))

end Sys2Proof.Machine.Claims
end

section
/-! The halted path (R455): the skip, the least of the next events held to 1 and the remaining budget; the tick of the whole skip;
then the poll of R508, which alone can change a register. -/

namespace Sys2Proof.Machine.Claims

/-! ## The least next event -/

/-- The least next event is the minimum of the answers that are not the sentinel (R455, R456). -/
theorem leastEvent_eq_min? (ps : List Peripheral) : leastEvent ps = (ps.filterMap Peripheral.nextEvent).min? := by
  induction ps with
  | nil => rfl
  | cons p rest ih =>
    rw [leastEvent, ih]
    cases hp : p.nextEvent with
    | none => rw [List.filterMap_cons_none hp]
    | some a =>
      rw [List.filterMap_cons_some hp, List.min?_cons]
      cases (rest.filterMap Peripheral.nextEvent).min? <;> rfl

theorem leastEvent_eq_none_iff {ps : List Peripheral} : leastEvent ps = none ↔ ∀ p ∈ ps, p.nextEvent = none := by
  rw [leastEvent_eq_min?, List.min?_eq_none_iff, List.filterMap_eq_nil_iff]

theorem leastEvent_eq_some_iff {ps : List Peripheral} {m : Nat} : leastEvent ps = some m ↔
    (∃ q ∈ ps, q.nextEvent = some m) ∧ ∀ p ∈ ps, ∀ k, p.nextEvent = some k → m ≤ k := by
  rw [leastEvent_eq_min?, List.min?_eq_some_iff]
  simp only [List.mem_filterMap]
  exact and_congr_right fun _ => ⟨fun h p hp k hk => h k ⟨p, hp, hk⟩, fun h k ⟨p, hp, hk⟩ => h p hp k hk⟩

/-! ## The skip -/

theorem skipCycles_pos (next : Option Nat) (b : Int) : 1 ≤ skipCycles next b := by
  cases next <;> simp only [skipCycles] <;> omega

section
variable {b : Int} (hb : 1 ≤ b)
include hb

theorem skipCycles_none : (skipCycles none b : Int) = b := by
  simp only [skipCycles]
  omega

theorem skipCycles_some (m : Nat) : skipCycles (some m) b = min (max m 1) b.toNat := by
  simp only [skipCycles]
  omega

theorem skipCycles_le (next : Option Nat) : (skipCycles next b : Int) ≤ b := by
  cases next with
  | none => exact (skipCycles_none hb).le
  | some m =>
    rw [skipCycles_some hb]
    omega

end

/-! ## The step of a halted core -/

/-- What the halted path leaves for its poll: the marks cleared, the skip off the budget and ticked (R455). -/
def skipped (n : Nat) (s : State) : State := { s with stepCost := 0, wrotePc := false, budget := s.budget - n }.tick n

theorem step_halted {s : State} (h : s.halted = true) :
    step s = .next (boundaryCheck (skipped (skipCycles (leastEvent s.plat.periphs) s.budget) s)) := by
  rw [step, if_pos h]
  rfl

theorem skipped_plat (n : Nat) (s : State) : (skipped n s).plat = (s.tick n).plat := rfl

theorem elapsed_skipped (n : Nat) (s : State) : elapsed (skipped n s) = (elapsed s).map (· + n) := by
  rw [elapsed, skipped_plat, tick_elapsed, elapsed, List.map_map]
  rfl

theorem elapsed_boundaryCheck (s : State) : elapsed (boundaryCheck s) = elapsed s := by
  rw [elapsed, boundaryCheck_plat, elapsed]

/-! ## The poll (R508) -/

theorem interruptPending_iff {s : State} : s.interruptPending = true ↔ ∃ p ∈ s.plat.periphs, p.level = true :=
  List.any_eq_true

theorem boundaryCheck_of_quiet {s : State} (quiet : ∀ p ∈ s.plat.periphs, p.level = false) : boundaryCheck s = s := by
  have idle : ¬ s.interruptPending = true := fun h =>
    let ⟨p, hp, hl⟩ := interruptPending_iff.1 h
    absurd hl (by simp [quiet p hp])
  rw [boundaryCheck, if_neg idle]

/-- An active line that finds I set only wakes the core (R508). -/
theorem boundaryCheck_of_masked {s : State} (active : ∃ p ∈ s.plat.periphs, p.level = true) (masked : s.cpsr.i = true) :
    boundaryCheck s = { s with halted := false } := by
  rcases boundaryCheck_cases s with ⟨idle, -⟩ | ⟨-, -, e⟩ | ⟨-, hi, -⟩
  · exact absurd (interruptPending_iff.2 active) (by simp [idle])
  · exact e
  · exact absurd masked (by simp [hi])

/-- An active line that finds I clear wakes the core and is taken (R508, R512). -/
theorem boundaryCheck_of_unmasked {s : State} (active : ∃ p ∈ s.plat.periphs, p.level = true) (unmasked : s.cpsr.i = false) :
    boundaryCheck s = enterException .irq s.pc { s with halted := false } := by
  rcases boundaryCheck_cases s with ⟨idle, -⟩ | ⟨-, hi, -⟩ | ⟨-, -, e⟩
  · exact absurd (interruptPending_iff.2 active) (by simp [idle])
  · exact absurd unmasked (by simp [hi])
  · exact e

theorem boundaryCheck_awake {s : State} (active : ∃ p ∈ s.plat.periphs, p.level = true) : (boundaryCheck s).halted = false := by
  cases hi : s.cpsr.i
  · simp [boundaryCheck_of_unmasked active hi]
  · rw [boundaryCheck_of_masked active hi]

/-! ## The statement -/

/-- Settles O57: the skip is the least next event within its bounds, no part of it is a fetch, and each case of the poll is taken
by its own equation; the entry does not look at the marks the skip cleared. -/
theorem haltedPath : Obligations.HaltedPath := by
  intro s halted hb
  obtain ⟨n, hn⟩ : ∃ n, n = skipCycles (leastEvent s.plat.periphs) s.budget := ⟨_, rfl⟩
  refine ⟨boundaryCheck (skipped n s), n, hn ▸ step_halted halted, hn ▸ skipCycles_pos _ _, hn ▸ skipCycles_le hb _,
    boundaryCheck_budget _, boundaryCheck_plat _, boundaryCheck_mem _, (elapsed_boundaryCheck _).trans (elapsed_skipped n s),
    boundaryCheck_lastAccess _, fun noEvent => ?_, fun q m hq hm least => ?_, ?_⟩
  · rw [hn, leastEvent_eq_none_iff.2 noEvent, skipCycles_none hb]
  · rw [hn, leastEvent_eq_some_iff.2 ⟨⟨q, hq, hm⟩, least⟩, skipCycles_some hb]
  · rw [boundaryCheck_plat]
    refine ⟨fun quiet => ?_, fun active => ⟨boundaryCheck_awake active, fun masked => ?_, fun unmasked => ?_⟩⟩
    · rw [boundaryCheck_of_quiet quiet]
      exact ⟨halted, rfl, rfl, rfl, fun _ => rfl⟩
    · rw [boundaryCheck_of_masked active masked]
      exact ⟨rfl, rfl, rfl, fun _ => rfl⟩
    · rw [boundaryCheck_of_unmasked active unmasked]
      exact enters_enterException .irq s.pc { skipped n s with halted := false }

end Sys2Proof.Machine.Claims
end

section
/-! The exception entry (R505): the vectors, modes and link values of R501 are those `enterException` takes; what it writes and what
it leaves is then `enters_enterException`. -/

namespace Sys2Proof.Machine.Claims

/-- R501's row of a class names what the model's entry uses for it. -/
theorem eq_of_classRow {cls : ExcClass} {vector : Word} {b : ExcMode} {setF : Bool} {link : Word}
    (row : classRow cls = some (vector, b, setF, link)) :
    vectorOf cls = vector ∧ excMode cls = b ∧ setsF cls = setF ∧ lrAdjust cls = link := by
  cases cls with
  | undefined | swi | irq | fiq =>
    cases row
    exact ⟨by decide, rfl, rfl, rfl⟩
  | reset | prefetchAbort | dataAbort => cases row

/-- Settles O30: the row's values are the model's own (`eq_of_classRow`), the entry and its frame are `enters_enterException`, and
the platform, the mark and the cost are the entry's field lemmas. -/
theorem exceptionEntry : Obligations.ExceptionEntry := by
  intro cls vector b setF link ret s row
  obtain ⟨rfl, rfl, rfl, rfl⟩ := eq_of_classRow row
  exact ⟨enters_enterException cls ret s, enterException_plat .., enterException_wrotePc .., enterException_stepCost ..⟩

end Sys2Proof.Machine.Claims
end

section
/-! Reset and construction (R46, R560, R561): what construction gives, and what each observation of the reset state reads. -/

namespace Sys2Proof.Machine.Claims

/-- Construction accepts the canonical images and gives the reset state with that image and platform (R560). -/
theorem mem_construct_iff {image : Memory} {plat : Platform} {s : State} :
    s ∈ State.construct image plat ↔ image.wf = true ∧ s = State.resetWith image plat := by
  unfold State.construct
  split
  · next accepted => simp [accepted, eq_comm]
  · next rejected => simp [rejected]

@[simp] theorem phys_resetWith (p : PhysReg) (image : Memory) (plat : Platform) : (State.resetWith image plat).phys p = 0#32 := by
  simp [State.phys, State.resetWith, Vector.get_eq_getElem]

@[simp] theorem spsr_resetWith (b : ExcMode) (image : Memory) (plat : Platform) : (State.resetWith image plat).spsr b = .reset := by
  cases b <;> rfl

@[simp] theorem toWord_spsr_reset : Spsr.reset.toWord = 0#32 := by decide

@[simp] theorem toWord_cpsr_reset : Cpsr.reset.toWord = 0x000000D3#32 := by decide

/-- After reset every slot of every mode reads zero: 15 is pc, at the vector base, and the others name zero registers. -/
@[simp] theorem inspect_resetWith (m : Mode) (i : Reg) (image : Memory) (plat : Platform) :
    (State.resetWith image plat).inspect m i = 0#32 := by
  unfold State.inspect
  split
  · rfl
  · exact phys_resetWith ..

/-- No access comes before the first after reset, so it is sequential at no address (R561). -/
@[simp] theorem sequential_resetWith (a : Word) (image : Memory) (plat : Platform) :
    sequential (State.resetWith image plat).lastAccess a = false := rfl

/-- The first fetch is one ARM word read at 0, not sequential, and its cost is the whole cost so far (R64, R561). -/
theorem fetch_stepCost_resetWith (image : Memory) (plat : Platform) :
    (fetch (State.resetWith image plat)).2.stepCost =
      1 + Config.accessWait plat.bus ⟨.read, 0x00000000#32, .word, 0#32⟩ false := by
  rw [fetch_stepCost_eq, Nat.zero_add]
  rfl

/-- Settles O1: construction gives the reset state (`mem_construct_iff`), and each observation of it is that observation's own
lemma; the fields not named by one are those `State.resetWith` writes. -/
theorem resetState : Obligations.ResetState := by
  intro image plat s constructed
  obtain ⟨-, rfl⟩ := mem_construct_iff.1 constructed
  exact ⟨fun p => phys_resetWith p image plat, fun b => (congrArg Spsr.toWord (spsr_resetWith b image plat)).trans toWord_spsr_reset,
    toWord_cpsr_reset, rfl, rfl, rfl, rfl, rfl, fun m i => inspect_resetWith m i image plat, sequential_resetWith _ image plat,
    fetch_stepCost_resetWith image plat⟩

end Sys2Proof.Machine.Claims
end

section
/-! Every step (R28, R37, R45, R521): what a step keeps of the invariant, and the only ways out of User mode. Both go through what
an instruction can do (`exec_acts`) and through what else may run after the fetch. -/

namespace Sys2Proof.Machine.Claims

/-- What runs after the fetch: an instruction, the Undefined exception, or nothing (R153 to R156). -/
theorem executeFetched_cases {x : Word × State} {t : State} (h : executeFetched x = .next t) :
    (∃ i, exec i x.2 = .next t) ∨ t = enterException .undefined x.2.pc x.2 ∨ t = x.2 := by
  unfold executeFetched at h
  split at h
  · next i _ => exact .inl ⟨i, h⟩
  · unfold takeNoRow at h
    split at h
    · exact .inr (.inl (Host.Outcome.next.inj h).symm)
    · rcases guarded_next h with rfl | ⟨-, h⟩
      · exact .inr (.inr rfl)
      · exact .inr (.inl (Host.Outcome.next.inj h).symm)

/-- A step that goes on is the halted path, or what ran after the fetch and the end of the step. -/
theorem step_next {s t : State} (h : step s = .next t) :
    s.halted = true ∧ t = boundaryCheck (skipped (skipCycles (leastEvent s.plat.periphs) s.budget) s) ∨
    s.halted = false ∧ ∃ u, executeFetched (fetch s) = .next u ∧ t = completeStep u := by
  cases hh : s.halted
  · rw [step_awake hh] at h
    exact .inr ⟨rfl, andThen_next h⟩
  · rw [step_halted hh] at h
    exact .inl ⟨rfl, (Host.Outcome.next.inj h).symm⟩

/-! ## The invariant (R28, R45) -/

/-- The part of the invariant that holds inside a step as well: canonical memory, and pc aligned for the state. -/
def Sound (s : State) : Prop := s.mem.wf = true ∧ alignPc s.cpsr.t s.pc = s.pc

theorem sound_enterException {cls : ExcClass} {ret : Word} {s : State} (h : s.mem.wf = true) :
    Sound (enterException cls ret s) :=
  ⟨by rwa [enterException_mem], by rw [enterException_cpsr, enterException_pc]; exact vectorOf_aligned cls⟩

theorem sound_writePc {v : Word} {s : State} (h : s.mem.wf = true) : Sound (writePc v s) :=
  ⟨h, alignPc_idem s.cpsr.t v⟩

theorem sound_exec {i : Instr} {s t : State} (e : exec i s = .next t) (h : Sound s) : Sound t := by
  obtain ⟨hwf, hal⟩ := h
  rcases exec_acts e with p | ⟨-, cls, -, u, p, -, -, -, -, rfl⟩ | ⟨-, v, u, p, rfl⟩ | ⟨-, v, u, p, ht⟩ |
    ⟨-, sp, m, v, u, p, ht⟩
  · exact ⟨p.wf hwf, by rw [p.thumb]; exact p.aligned hal⟩
  · exact sound_enterException (p.wf hwf)
  · exact ⟨p.wf hwf, branchExchange_aligned v u⟩
  · rcases exceptionReturn_next ht with ⟨-, rfl⟩ | ⟨b, q, -, -, rfl⟩
    · exact sound_writePc (p.wf hwf)
    · exact sound_writePc (s := u.setCpsr q) (p.wf hwf)
  · obtain ⟨hpc, hmem, -, hthumb⟩ := msr_pc ht
    refine ⟨by rw [hmem]; exact p.wf hwf, ?_⟩
    rw [hpc, hthumb, p.thumb]
    exact p.aligned hal

theorem sound_executeFetched {x : Word × State} {t : State} (e : executeFetched x = .next t) (h : Sound x.2) : Sound t := by
  rcases executeFetched_cases e with ⟨i, e⟩ | rfl | rfl
  · exact sound_exec e h
  · exact sound_enterException h.1
  · exact h

theorem sound_boundaryCheck {s : State} (h : Sound s) : Sound (boundaryCheck s) :=
  ⟨by rw [boundaryCheck_mem]; exact h.1, boundaryCheck_aligned s h.2⟩

theorem sound_chargeRefill {s : State} (h : Sound s) : Sound (chargeRefill s) := by
  unfold Sound
  rwa [chargeRefill_mem, chargeRefill_cpsr, chargeRefill_pc]

theorem sound_tick {n : Nat} {s : State} (h : Sound s) : Sound (s.tick n) := ⟨wf_tick n s h.1, h.2⟩

theorem sound_account {s : State} (h : Sound s) : Sound (account s) :=
  sound_tick (s := { s with budget := s.budget - s.stepCost }) h

theorem completeStep_wrotePc (s : State) : (completeStep s).wrotePc = false := by
  show (boundaryCheck (chargeRefill s)).wrotePc = false
  rw [boundaryCheck_wrotePc, chargeRefill_wrotePc]

/-- Settles O3: the fetch, what runs after it, the refill, the poll and the tick each keep memory canonical and pc aligned; the
mark is cleared by the refill charge, and on the halted path by the skip. -/
theorem stepKeepsInvariant : Obligations.StepKeepsInvariant := by
  rintro s t ⟨hwf, hal, -⟩ e
  rcases step_next e with ⟨-, rfl⟩ | ⟨-, u, hu, rfl⟩
  · have hs : Sound (skipped (skipCycles (leastEvent s.plat.periphs) s.budget) s) := sound_tick ⟨hwf, hal⟩
    obtain ⟨hwf', hal'⟩ := sound_boundaryCheck hs
    exact ⟨hwf', hal', boundaryCheck_wrotePc _⟩
  · have hs : Sound u := sound_executeFetched hu ⟨fetch_wf s hwf, fetch_aligned s hal⟩
    obtain ⟨hwf', hal'⟩ := sound_account (sound_boundaryCheck (sound_chargeRefill hs))
    exact ⟨hwf', hal', completeStep_wrotePc u⟩

/-! ## User mode (R37, R521) -/

/-- An exception of class `cls` was entered from User mode: interrupts are masked, pc is the vector, User mode is saved. Nothing of
this is touched by the end of a step that does not enter another. -/
def EnteredFromUser (cls : ExcClass) (t : State) : Prop :=
  t.cpsr.t = false ∧ t.cpsr.i = true ∧ t.cpsr.mode = (excMode cls).mode ∧ t.pc = vectorOf cls ∧
    (t.spsr (excMode cls)).m = Mode.usr.bits

theorem enteredFromUser {cls : ExcClass} {ret : Word} {s : State} (h : s.cpsr.mode = .usr) :
    EnteredFromUser cls (enterException cls ret s) := by
  refine ⟨by rw [enterException_cpsr]; rfl, by rw [enterException_cpsr]; rfl, by rw [enterException_cpsr]; rfl,
    enterException_pc cls ret s, ?_⟩
  rw [spsr_enterException, if_pos rfl, ← h]
  rfl

/-- An instruction leaves User mode only by raising an exception. -/
theorem exec_user {i : Instr} {s t : State} (h : s.cpsr.mode = .usr) (e : exec i s = .next t) :
    t.cpsr.mode = .usr ∨ ∃ cls, (cls = .undefined ∨ cls = .swi) ∧ EnteredFromUser cls t := by
  rcases exec_acts e with p | ⟨-, cls, hc, u, p, -, -, -, hcpsr, rfl⟩ | ⟨-, v, u, p, rfl⟩ | ⟨-, v, u, p, ht⟩ |
    ⟨-, sp, m, v, u, p, ht⟩
  · exact .inl (p.mode.trans h)
  · exact .inr ⟨cls, hc, enteredFromUser (by rw [hcpsr, h])⟩
  · exact .inl (p.mode.trans h)
  · rcases exceptionReturn_next ht with ⟨-, rfl⟩ | ⟨b, q, hb, -, rfl⟩
    · exact .inl (p.mode.trans h)
    · rw [p.mode, h] at hb
      exact nomatch hb
  · have hu : u.cpsr.mode = .usr := p.mode.trans h
    unfold msr at ht
    split at ht
    · obtain rfl := Host.Outcome.next.inj ht
      rw [msrSpsr_cpsr]
      exact .inl hu
    · exact .inl (msrCpsr_user hu ht).2.2

theorem executeFetched_user {x : Word × State} {t : State} (h : x.2.cpsr.mode = .usr) (e : executeFetched x = .next t) :
    t.cpsr.mode = .usr ∨ ∃ cls, (cls = .undefined ∨ cls = .swi) ∧ EnteredFromUser cls t := by
  rcases executeFetched_cases e with ⟨i, e⟩ | rfl | rfl
  · exact exec_user h e
  · exact .inr ⟨.undefined, .inl rfl, enteredFromUser h⟩
  · exact .inl h

/-- The poll leaves User mode only by the interrupt. -/
theorem boundaryCheck_user {s : State} (h : s.cpsr.mode = .usr) :
    (boundaryCheck s).cpsr.mode = .usr ∨ EnteredFromUser .irq (boundaryCheck s) := by
  rcases boundaryCheck_cases s with ⟨-, e⟩ | ⟨-, -, e⟩ | ⟨-, -, e⟩ <;> rw [e]
  · exact .inl h
  · exact .inl h
  · exact .inr (enteredFromUser h)

/-- After an entry the poll enters nothing: the entry masked the interrupt (R161, R507). -/
theorem EnteredFromUser.boundaryCheck {cls : ExcClass} {s : State} (h : EnteredFromUser cls s) :
    EnteredFromUser cls (boundaryCheck s) := by
  obtain ⟨-, masked, -⟩ := id h
  rcases boundaryCheck_cases s with ⟨-, e⟩ | ⟨-, -, e⟩ | ⟨-, unmasked, -⟩
  · rwa [e]
  · rw [e]
    cases cls <;> exact h
  · simp [masked] at unmasked

theorem EnteredFromUser.chargeRefill {cls : ExcClass} {s : State} (h : EnteredFromUser cls s) :
    EnteredFromUser cls (chargeRefill s) := by
  unfold Machine.chargeRefill
  split
  · cases cls <;> exact h
  · exact h

theorem EnteredFromUser.account {cls : ExcClass} {s : State} (h : EnteredFromUser cls s) : EnteredFromUser cls (account s) := by
  cases cls <;> exact h

/-- A step from User mode stays there or has entered one of the three exceptions of this core. -/
theorem step_user {s t : State} (h : s.cpsr.mode = .usr) (e : step s = .next t) :
    t.cpsr.mode = .usr ∨ ∃ cls, (cls = .undefined ∨ cls = .swi ∨ cls = .irq) ∧ EnteredFromUser cls t := by
  rcases step_next e with ⟨-, rfl⟩ | ⟨-, u, hu, rfl⟩
  · exact (boundaryCheck_user (s := skipped _ s) h).imp_right fun entered => ⟨.irq, .inr (.inr rfl), entered⟩
  · rcases executeFetched_user (x := fetch s) h hu with stays | ⟨cls, hc, entered⟩
    · have hq : (chargeRefill u).cpsr.mode = .usr := by rw [chargeRefill_cpsr, stays]
      exact (boundaryCheck_user hq).imp id fun entered => ⟨.irq, .inr (.inr rfl), entered.account⟩
    · exact .inr ⟨cls, hc.imp_right .inl, entered.chargeRefill.boundaryCheck.account⟩

/-- Settles O52: by `step_user`, and each of the three classes as its vector, mode and SPSR. -/
theorem userModeIsLeftOnlyThroughAVector : Obligations.UserModeIsLeftOnlyThroughAVector := by
  intro s t h e left
  obtain ⟨cls, hc, thumb, masked, mode, pc, saved⟩ := (step_user h e).resolve_left left
  refine ⟨thumb, masked, ?_⟩
  rcases hc with rfl | rfl | rfl
  · exact .inr (.inl ⟨mode, pc, saved⟩)
  · exact .inl ⟨mode, pc, saved⟩
  · exact .inr (.inr ⟨mode, pc, saved⟩)

end Sys2Proof.Machine.Claims
end

section
/-! Encoding, then decoding (R102 to R129): for each ARM format, the bits the decode tree looks at and the fields of an encoded word
are those it was made of; THUMB encodings are read back in place. -/

namespace Sys2Proof.Machine.Claims

/-- A field of a literal is computed. -/
@[simp] theorem fld_ofNat (w k lo n : Nat) : fld (BitVec.ofNat w k) lo n = (BitVec.ofNat w k).extractLsb' lo n := rfl

@[simp] theorem bit_ofNat (w k i : Nat) : bit (BitVec.ofNat w k) i = ((BitVec.ofNat w k).extractLsb' i 1 == 1#1) := rfl

/-! ## The ARM formats -/

theorem DpImm.header (op : BitVec 4) (f : DpImm) :
    fld (f.toWord op) 25 3 = 1#3 ∧ fld (f.toWord op) 23 2 = fld op 2 2 ∧ bit (f.toWord op) 20 = f.s ∧
    fld (f.toWord op) 21 4 = op := by
  simp [DpImm.toWord, fld_hi, fld_lo, bit_hi, bit_lo, -Nat.reduceAdd]

@[simp] theorem DpImm.ofWord_toWord (op : BitVec 4) (f : DpImm) :
    DpImm.ofWord (f.toWord op) = f := by
  simp [DpImm.ofWord, DpImm.toWord, condOf, fld_hi, fld_lo, bit_hi, bit_lo, -Nat.reduceAdd]

theorem CmpImm.header (op : BitVec 4) (f : CmpImm) :
    fld (f.toWord op) 25 3 = 1#3 ∧ fld (f.toWord op) 23 2 = fld op 2 2 ∧ bit (f.toWord op) 20 = true ∧
    fld (f.toWord op) 21 4 = op := by
  simp [CmpImm.toWord, fld_hi, fld_lo, bit_hi, bit_lo, -Nat.reduceAdd]

@[simp] theorem CmpImm.ofWord_toWord (op : BitVec 4) (f : CmpImm) :
    CmpImm.ofWord (f.toWord op) = f := by
  simp [CmpImm.ofWord, CmpImm.toWord, condOf, fld_hi, fld_lo, -Nat.reduceAdd]

theorem DpReg.header (op : BitVec 4) (f : DpReg) :
    fld (f.toWord op) 25 3 = 0#3 ∧ bit (f.toWord op) 4 = false ∧ fld (f.toWord op) 23 2 = fld op 2 2 ∧
    bit (f.toWord op) 20 = f.s ∧ fld (f.toWord op) 21 4 = op := by
  simp [DpReg.toWord, fld_hi, fld_lo, bit_hi, bit_lo, -Nat.reduceAdd]

@[simp] theorem DpReg.ofWord_toWord (op : BitVec 4) (f : DpReg) :
    DpReg.ofWord (f.toWord op) = f := by
  simp [DpReg.ofWord, DpReg.toWord, condOf, fld_hi, fld_lo, bit_hi, bit_lo, -Nat.reduceAdd]

theorem CmpReg.header (op : BitVec 4) (f : CmpReg) :
    fld (f.toWord op) 25 3 = 0#3 ∧ bit (f.toWord op) 4 = false ∧ fld (f.toWord op) 23 2 = fld op 2 2 ∧
    bit (f.toWord op) 20 = true ∧ fld (f.toWord op) 21 4 = op := by
  simp [CmpReg.toWord, fld_hi, fld_lo, bit_hi, bit_lo, -Nat.reduceAdd]

@[simp] theorem CmpReg.ofWord_toWord (op : BitVec 4) (f : CmpReg) :
    CmpReg.ofWord (f.toWord op) = f := by
  simp [CmpReg.ofWord, CmpReg.toWord, condOf, fld_hi, fld_lo, -Nat.reduceAdd]

theorem DpRsr.header (op : BitVec 4) (f : DpRsr) :
    fld (f.toWord op) 25 3 = 0#3 ∧ bit (f.toWord op) 4 = true ∧ bit (f.toWord op) 7 = false ∧
    fld (f.toWord op) 23 2 = fld op 2 2 ∧ bit (f.toWord op) 20 = f.s ∧ fld (f.toWord op) 21 4 = op := by
  simp [DpRsr.toWord, fld_hi, fld_lo, bit_hi, bit_lo, -Nat.reduceAdd]

@[simp] theorem DpRsr.ofWord_toWord (op : BitVec 4) (f : DpRsr) :
    DpRsr.ofWord (f.toWord op) = f := by
  simp [DpRsr.ofWord, DpRsr.toWord, condOf, fld_hi, fld_lo, bit_hi, bit_lo, -Nat.reduceAdd]

theorem CmpRsr.header (op : BitVec 4) (f : CmpRsr) :
    fld (f.toWord op) 25 3 = 0#3 ∧ bit (f.toWord op) 4 = true ∧ bit (f.toWord op) 7 = false ∧
    fld (f.toWord op) 23 2 = fld op 2 2 ∧ bit (f.toWord op) 20 = true ∧ fld (f.toWord op) 21 4 = op := by
  simp [CmpRsr.toWord, fld_hi, fld_lo, bit_hi, bit_lo, -Nat.reduceAdd]

@[simp] theorem CmpRsr.ofWord_toWord (op : BitVec 4) (f : CmpRsr) :
    CmpRsr.ofWord (f.toWord op) = f := by
  simp [CmpRsr.ofWord, CmpRsr.toWord, condOf, fld_hi, fld_lo, -Nat.reduceAdd]

theorem MrsFields.header (f : MrsFields) :
    fld f.toWord 25 3 = 0#3 ∧ bit f.toWord 4 = false ∧ fld f.toWord 23 2 = 2#2 ∧ bit f.toWord 20 = false ∧
    fld f.toWord 20 2 = 0#2 ∧ fld f.toWord 4 4 = 0#4 := by
  simp [MrsFields.toWord, fld_hi, fld_lo, bit_hi, bit_lo, -Nat.reduceAdd]

@[simp] theorem MrsFields.ofWord_toWord (f : MrsFields) :
    MrsFields.ofWord f.toWord = f := by
  simp [MrsFields.ofWord, MrsFields.toWord, condOf, fld_hi, fld_lo, bit_hi, bit_lo, -Nat.reduceAdd]

theorem MsrRegFields.header (f : MsrRegFields) :
    fld f.toWord 25 3 = 0#3 ∧ bit f.toWord 4 = false ∧ fld f.toWord 23 2 = 2#2 ∧ bit f.toWord 20 = false ∧
    fld f.toWord 20 2 = 2#2 ∧ fld f.toWord 4 4 = 0#4 := by
  simp [MsrRegFields.toWord, fld_hi, fld_lo, bit_hi, bit_lo, -Nat.reduceAdd]

@[simp] theorem MsrRegFields.ofWord_toWord (f : MsrRegFields) :
    MsrRegFields.ofWord f.toWord = f := by
  simp [MsrRegFields.ofWord, MsrRegFields.toWord, condOf, fld_hi, fld_lo, bit_hi, bit_lo, -Nat.reduceAdd]

theorem MsrImmFields.header (f : MsrImmFields) :
    fld f.toWord 25 3 = 1#3 ∧ fld f.toWord 23 2 = 2#2 ∧ bit f.toWord 20 = false ∧ bit f.toWord 21 = true := by
  simp [MsrImmFields.toWord, fld_hi, fld_lo, bit_hi, bit_lo, -Nat.reduceAdd]

@[simp] theorem MsrImmFields.ofWord_toWord (f : MsrImmFields) :
    MsrImmFields.ofWord f.toWord = f := by
  simp [MsrImmFields.ofWord, MsrImmFields.toWord, condOf, fld_hi, fld_lo, bit_hi, bit_lo, -Nat.reduceAdd]

theorem BxFields.header (f : BxFields) :
    fld f.toWord 25 3 = 0#3 ∧ bit f.toWord 7 = false ∧ fld f.toWord 23 2 = 2#2 ∧ bit f.toWord 20 = false ∧
    fld f.toWord 20 2 = 2#2 ∧ fld f.toWord 20 8 = 0b00010010#8 ∧ fld f.toWord 4 4 = 1#4 := by
  simp [BxFields.toWord, fld_hi, fld_lo, bit_hi, bit_lo, -Nat.reduceAdd]

@[simp] theorem BxFields.ofWord_toWord (f : BxFields) :
    BxFields.ofWord f.toWord = f := by
  simp [BxFields.ofWord, BxFields.toWord, condOf, fld_hi, fld_lo, -Nat.reduceAdd]

theorem MulFields.header (accumulate : Bool) (f : MulFields) :
    fld (f.toWord accumulate) 25 3 = 0#3 ∧ bit (f.toWord accumulate) 4 = true ∧ bit (f.toWord accumulate) 7 = true ∧
    fld (f.toWord accumulate) 5 2 = 0#2 ∧ fld (f.toWord accumulate) 23 5 = 0#5 ∧ bit (f.toWord accumulate) 22 = false ∧
    bit (f.toWord accumulate) 21 = accumulate := by
  simp [MulFields.toWord, fld_hi, fld_lo, bit_hi, bit_lo, -Nat.reduceAdd]

@[simp] theorem MulFields.ofWord_toWord (accumulate : Bool) (f : MulFields) :
    MulFields.ofWord (f.toWord accumulate) = f := by
  simp [MulFields.ofWord, MulFields.toWord, condOf, fld_hi, fld_lo, bit_hi, bit_lo, -Nat.reduceAdd]

theorem MullFields.header (signed : Bool) (accumulate : Bool) (f : MullFields) :
    fld (f.toWord signed accumulate) 25 3 = 0#3 ∧ bit (f.toWord signed accumulate) 4 = true ∧
    bit (f.toWord signed accumulate) 7 = true ∧ fld (f.toWord signed accumulate) 5 2 = 0#2 ∧
    fld (f.toWord signed accumulate) 23 5 = 1#5 ∧ bit (f.toWord signed accumulate) 22 = signed ∧
    bit (f.toWord signed accumulate) 21 = accumulate := by
  simp [MullFields.toWord, fld_hi, fld_lo, bit_hi, bit_lo, -Nat.reduceAdd]

@[simp] theorem MullFields.ofWord_toWord (signed : Bool) (accumulate : Bool) (f : MullFields) :
    MullFields.ofWord (f.toWord signed accumulate) = f := by
  simp [MullFields.ofWord, MullFields.toWord, condOf, fld_hi, fld_lo, bit_hi, bit_lo, -Nat.reduceAdd]

theorem SwpFields.header (byte : Bool) (f : SwpFields) :
    fld (f.toWord byte) 25 3 = 0#3 ∧ bit (f.toWord byte) 4 = true ∧ bit (f.toWord byte) 7 = true ∧
    fld (f.toWord byte) 5 2 = 0#2 ∧ fld (f.toWord byte) 23 5 = 2#5 ∧ bit (f.toWord byte) 22 = byte ∧
    fld (f.toWord byte) 20 2 = 0#2 := by
  simp [SwpFields.toWord, fld_hi, fld_lo, bit_hi, bit_lo, -Nat.reduceAdd]

@[simp] theorem SwpFields.ofWord_toWord (byte : Bool) (f : SwpFields) :
    SwpFields.ofWord (f.toWord byte) = f := by
  simp [SwpFields.ofWord, SwpFields.toWord, condOf, fld_hi, fld_lo, -Nat.reduceAdd]

theorem HsReg.header (l : Bool) (sh : BitVec 2) (f : HsReg) :
    fld (f.toWord l sh) 25 3 = 0#3 ∧ bit (f.toWord l sh) 4 = true ∧ bit (f.toWord l sh) 7 = true ∧
    fld (f.toWord l sh) 5 2 = sh ∧ bit (f.toWord l sh) 22 = false ∧ bit (f.toWord l sh) 20 = l := by
  simp [HsReg.toWord, fld_hi, fld_lo, bit_hi, bit_lo, -Nat.reduceAdd]

@[simp] theorem HsReg.ofWord_toWord (l : Bool) (sh : BitVec 2) (f : HsReg) :
    HsReg.ofWord (f.toWord l sh) = f := by
  simp [HsReg.ofWord, HsReg.toWord, condOf, fld_hi, fld_lo, bit_hi, bit_lo, -Nat.reduceAdd]

theorem HsImm.header (l : Bool) (sh : BitVec 2) (f : HsImm) :
    fld (f.toWord l sh) 25 3 = 0#3 ∧ bit (f.toWord l sh) 4 = true ∧ bit (f.toWord l sh) 7 = true ∧
    fld (f.toWord l sh) 5 2 = sh ∧ bit (f.toWord l sh) 22 = true ∧ bit (f.toWord l sh) 20 = l := by
  simp [HsImm.toWord, fld_hi, fld_lo, bit_hi, bit_lo, -Nat.reduceAdd]

@[simp] theorem HsImm.ofWord_toWord (l : Bool) (sh : BitVec 2) (f : HsImm) :
    HsImm.ofWord (f.toWord l sh) = f := by
  simp [HsImm.ofWord, HsImm.toWord, condOf, fld_hi, fld_lo, bit_hi, bit_lo, -Nat.reduceAdd]

theorem SdtImmPre.header (byte : Bool) (l : Bool) (f : SdtImmPre) :
    fld (f.toWord byte l) 25 3 = 2#3 ∧ bit (f.toWord byte l) 24 = true ∧ bit (f.toWord byte l) 22 = byte ∧
    bit (f.toWord byte l) 20 = l := by
  simp [SdtImmPre.toWord, fld_hi, fld_lo, bit_hi, bit_lo, -Nat.reduceAdd]

@[simp] theorem SdtImmPre.ofWord_toWord (byte : Bool) (l : Bool) (f : SdtImmPre) :
    SdtImmPre.ofWord (f.toWord byte l) = f := by
  simp [SdtImmPre.ofWord, SdtImmPre.toWord, condOf, fld_hi, fld_lo, bit_hi, bit_lo, -Nat.reduceAdd]

theorem SdtImmPost.header (byte : Bool) (t : Bool) (l : Bool) (f : SdtImmPost) :
    fld (f.toWord byte t l) 25 3 = 2#3 ∧ bit (f.toWord byte t l) 24 = false ∧ bit (f.toWord byte t l) 22 = byte ∧
    bit (f.toWord byte t l) 21 = t ∧ bit (f.toWord byte t l) 20 = l := by
  simp [SdtImmPost.toWord, fld_hi, fld_lo, bit_hi, bit_lo, -Nat.reduceAdd]

@[simp] theorem SdtImmPost.ofWord_toWord (byte : Bool) (t : Bool) (l : Bool) (f : SdtImmPost) :
    SdtImmPost.ofWord (f.toWord byte t l) = f := by
  simp [SdtImmPost.ofWord, SdtImmPost.toWord, condOf, fld_hi, fld_lo, bit_hi, bit_lo, -Nat.reduceAdd]

theorem SdtRegPre.header (byte : Bool) (l : Bool) (f : SdtRegPre) :
    fld (f.toWord byte l) 25 3 = 3#3 ∧ bit (f.toWord byte l) 24 = true ∧ bit (f.toWord byte l) 22 = byte ∧
    bit (f.toWord byte l) 20 = l ∧ bit (f.toWord byte l) 4 = false := by
  simp [SdtRegPre.toWord, fld_hi, fld_lo, bit_hi, bit_lo, -Nat.reduceAdd]

@[simp] theorem SdtRegPre.ofWord_toWord (byte : Bool) (l : Bool) (f : SdtRegPre) :
    SdtRegPre.ofWord (f.toWord byte l) = f := by
  simp [SdtRegPre.ofWord, SdtRegPre.toWord, condOf, fld_hi, fld_lo, bit_hi, bit_lo, -Nat.reduceAdd]

theorem SdtRegPost.header (byte : Bool) (t : Bool) (l : Bool) (f : SdtRegPost) :
    fld (f.toWord byte t l) 25 3 = 3#3 ∧ bit (f.toWord byte t l) 24 = false ∧ bit (f.toWord byte t l) 22 = byte ∧
    bit (f.toWord byte t l) 21 = t ∧ bit (f.toWord byte t l) 20 = l ∧ bit (f.toWord byte t l) 4 = false := by
  simp [SdtRegPost.toWord, fld_hi, fld_lo, bit_hi, bit_lo, -Nat.reduceAdd]

@[simp] theorem SdtRegPost.ofWord_toWord (byte : Bool) (t : Bool) (l : Bool) (f : SdtRegPost) :
    SdtRegPost.ofWord (f.toWord byte t l) = f := by
  simp [SdtRegPost.ofWord, SdtRegPost.toWord, condOf, fld_hi, fld_lo, bit_hi, bit_lo, -Nat.reduceAdd]

theorem BdtFields.header (user : Bool) (l : Bool) (f : BdtFields) :
    fld (f.toWord user l) 25 3 = 4#3 ∧ bit (f.toWord user l) 22 = user ∧ bit (f.toWord user l) 20 = l := by
  simp [BdtFields.toWord, fld_hi, fld_lo, bit_hi, bit_lo, -Nat.reduceAdd]

@[simp] theorem BdtFields.ofWord_toWord (user : Bool) (l : Bool) (f : BdtFields) :
    BdtFields.ofWord (f.toWord user l) = f := by
  simp [BdtFields.ofWord, BdtFields.toWord, condOf, fld_hi, fld_lo, bit_hi, bit_lo, -Nat.reduceAdd]

theorem BdtLowFields.header (pc : Bool) (f : BdtLowFields) :
    fld (f.toWord pc) 25 3 = 4#3 ∧ bit (f.toWord pc) 22 = true ∧ bit (f.toWord pc) 20 = true ∧ bit (f.toWord pc) 15 = pc := by
  simp [BdtLowFields.toWord, fld_hi, fld_lo, bit_hi, bit_lo, -Nat.reduceAdd]

@[simp] theorem BdtLowFields.ofWord_toWord (pc : Bool) (f : BdtLowFields) :
    BdtLowFields.ofWord (f.toWord pc) = f := by
  simp [BdtLowFields.ofWord, BdtLowFields.toWord, condOf, fld_hi, fld_lo, bit_hi, bit_lo, -Nat.reduceAdd]

theorem BranchFields.header (link : Bool) (f : BranchFields) :
    fld (f.toWord link) 25 3 = 5#3 ∧ bit (f.toWord link) 24 = link := by
  simp [BranchFields.toWord, fld_hi, fld_lo, bit_hi, bit_lo, -Nat.reduceAdd]

@[simp] theorem BranchFields.ofWord_toWord (link : Bool) (f : BranchFields) :
    BranchFields.ofWord (f.toWord link) = f := by
  simp [BranchFields.ofWord, BranchFields.toWord, condOf, fld_hi, fld_lo, -Nat.reduceAdd]

theorem UndFields.header (f : UndFields) :
    fld f.toWord 25 3 = 3#3 ∧ bit f.toWord 4 = true := by
  simp [UndFields.toWord, fld_hi, fld_lo, bit_hi, bit_lo, -Nat.reduceAdd]

@[simp] theorem UndFields.ofWord_toWord (f : UndFields) :
    UndFields.ofWord f.toWord = f := by
  simp [UndFields.ofWord, UndFields.toWord, condOf, fld_hi, fld_lo, -Nat.reduceAdd]

theorem CpdtFields.header (l : Bool) (f : CpdtFields) :
    fld (f.toWord l) 25 3 = 6#3 ∧ bit (f.toWord l) 20 = l := by
  simp [CpdtFields.toWord, fld_hi, fld_lo, bit_hi, bit_lo, -Nat.reduceAdd]

@[simp] theorem CpdtFields.ofWord_toWord (l : Bool) (f : CpdtFields) :
    CpdtFields.ofWord (f.toWord l) = f := by
  simp [CpdtFields.ofWord, CpdtFields.toWord, condOf, fld_hi, fld_lo, bit_hi, bit_lo, -Nat.reduceAdd]

theorem CdpFields.header (f : CdpFields) :
    fld f.toWord 25 3 = 7#3 ∧ bit f.toWord 24 = false ∧ bit f.toWord 4 = false := by
  simp [CdpFields.toWord, fld_hi, fld_lo, bit_hi, bit_lo, -Nat.reduceAdd]

@[simp] theorem CdpFields.ofWord_toWord (f : CdpFields) :
    CdpFields.ofWord f.toWord = f := by
  simp [CdpFields.ofWord, CdpFields.toWord, condOf, fld_hi, fld_lo, -Nat.reduceAdd]

theorem CrtFields.header (l : Bool) (f : CrtFields) :
    fld (f.toWord l) 25 3 = 7#3 ∧ bit (f.toWord l) 24 = false ∧ bit (f.toWord l) 20 = l ∧ bit (f.toWord l) 4 = true := by
  simp [CrtFields.toWord, fld_hi, fld_lo, bit_hi, bit_lo, -Nat.reduceAdd]

@[simp] theorem CrtFields.ofWord_toWord (l : Bool) (f : CrtFields) :
    CrtFields.ofWord (f.toWord l) = f := by
  simp [CrtFields.ofWord, CrtFields.toWord, condOf, fld_hi, fld_lo, -Nat.reduceAdd]

theorem SwiFields.header (f : SwiFields) :
    fld f.toWord 25 3 = 7#3 ∧ bit f.toWord 24 = true := by
  simp [SwiFields.toWord, fld_hi, fld_lo, bit_hi, bit_lo, -Nat.reduceAdd]

@[simp] theorem SwiFields.ofWord_toWord (f : SwiFields) :
    SwiFields.ofWord f.toWord = f := by
  simp [SwiFields.ofWord, SwiFields.toWord, condOf, fld_hi, fld_lo, -Nat.reduceAdd]

/-! ## The statement -/

/-- Settles O4: an ARM word by the bits its format shows to the decode tree and the format's own fields, a THUMB halfword by reading
the bits of its encoding. -/
theorem decodeOfEncode : Obligations.DecodeOfEncode := by
  intro i
  cases i with
  | andImm f | eorImm f | subImm f | rsbImm f | addImm f | adcImm f | sbcImm f | rscImm f | orrImm f | movImm f | bicImm f
  | mvnImm f =>
    simp [encode, decode, decodeArm, decodeDpImm, DpImm.header]
  | tstImm f | teqImm f | cmpImm f | cmnImm f =>
    simp [encode, decode, decodeArm, decodeDpImm, CmpImm.header]
  | andReg f | eorReg f | subReg f | rsbReg f | addReg f | adcReg f | sbcReg f | rscReg f | orrReg f | movReg f | bicReg f
  | mvnReg f =>
    simp [encode, decode, decodeArm, decodeDpReg, DpReg.header]
  | tstReg f | teqReg f | cmpReg f | cmnReg f =>
    simp [encode, decode, decodeArm, decodeDpReg, CmpReg.header]
  | andRsr f | eorRsr f | subRsr f | rsbRsr f | addRsr f | adcRsr f | sbcRsr f | rscRsr f | orrRsr f | movRsr f | bicRsr f
  | mvnRsr f =>
    simp [encode, decode, decodeArm, decodeDpRsr, DpRsr.header]
  | tstRsr f | teqRsr f | cmpRsr f | cmnRsr f =>
    simp [encode, decode, decodeArm, decodeDpRsr, CmpRsr.header]
  | mrs f => simp [encode, decode, decodeArm, decodeMisc, MrsFields.header]
  | msrReg f => simp [encode, decode, decodeArm, decodeMisc, MsrRegFields.header]
  | msrImm f => simp [encode, decode, decodeArm, MsrImmFields.header]
  | bx f => simp [encode, decode, decodeArm, decodeMisc, BxFields.header]
  | mul f | mla f => simp [encode, decode, decodeArm, decodeExtension, MulFields.header]
  | umull f | umlal f | smull f | smlal f => simp [encode, decode, decodeArm, decodeExtension, MullFields.header]
  | swp f | swpb f => simp [encode, decode, decodeArm, decodeExtension, SwpFields.header]
  | strhReg f | ldrhReg f | ldrsbReg f | ldrshReg f => simp [encode, decode, decodeArm, decodeExtension, HsReg.header]
  | strhImm f | ldrhImm f | ldrsbImm f | ldrshImm f => simp [encode, decode, decodeArm, decodeExtension, HsImm.header]
  | ldrImmPre f | strImmPre f | ldrbImmPre f | strbImmPre f => simp [encode, decode, decodeArm, decodeSdtImm, SdtImmPre.header]
  | ldrImmPost f | ldrtImm f | strImmPost f | strtImm f | ldrbImmPost f | ldrbtImm f | strbImmPost f | strbtImm f =>
    simp [encode, decode, decodeArm, decodeSdtImm, SdtImmPost.header]
  | ldrRegPre f | strRegPre f | ldrbRegPre f | strbRegPre f => simp [encode, decode, decodeArm, decodeSdtReg, SdtRegPre.header]
  | ldrRegPost f | ldrtReg f | strRegPost f | strtReg f | ldrbRegPost f | ldrbtReg f | strbRegPost f | strbtReg f =>
    simp [encode, decode, decodeArm, decodeSdtReg, SdtRegPost.header]
  | ldm f | stm f | stmUser f => simp [encode, decode, decodeArm, decodeBlock, BdtFields.header]
  | ldmUser f | ldmReturn f => simp [encode, decode, decodeArm, decodeBlock, BdtLowFields.header]
  | b f | bl f => simp [encode, decode, decodeArm, BranchFields.header]
  | stc f | ldc f => simp [encode, decode, decodeArm, CpdtFields.header]
  | cdp f => simp [encode, decode, decodeArm, decodeHigh, CdpFields.header]
  | mcr f | mrc f => simp [encode, decode, decodeArm, decodeHigh, CrtFields.header]
  | swi f => simp [encode, decode, decodeArm, decodeHigh, SwiFields.header]
  | und f => simp [encode, decode, decodeArm, UndFields.header]
  | tLslImm n s d | tLsrImm n s d | tAsrImm n s d | tAddReg n s d | tSubReg n s d | tAddImm3 n s d | tSubImm3 n s d =>
    simp [encode, decode, decodeThumb, decodeThumb000, fld_hi, fld_lo, bit_hi, -Nat.reduceAdd]
  | tMovImm8 d n | tCmpImm8 d n | tAddImm8 d n | tSubImm8 d n =>
    simp [encode, decode, decodeThumb, decodeThumb001, fld_hi, fld_lo, bit_hi, -Nat.reduceAdd]
  | tAnd s d | tEor s d | tLsl s d | tLsr s d | tAsr s d | tAdc s d | tSbc s d | tRor s d | tTst s d | tNeg s d | tCmp s d
  | tCmn s d | tOrr s d | tMul s d | tBic s d | tMvn s d =>
    simp [encode, decode, decodeThumb, decodeThumb010, decodeThumbAlu, fld_hi, fld_lo, bit_hi, -Nat.reduceAdd]
  | tAddHi h k s d | tCmpHi h k s d | tMovHi h k s d | tBx h s z =>
    simp [encode, decode, decodeThumb, decodeThumb010, decodeThumbHigh, fld_hi, fld_lo, bit_hi, bit_lo, -Nat.reduceAdd]
  | tLdrPc d n =>
    simp [encode, decode, decodeThumb, decodeThumb010, fld_hi, fld_lo, bit_hi, -Nat.reduceAdd]
  | tStrReg o b d | tStrbReg o b d | tLdrReg o b d | tLdrbReg o b d | tStrhReg o b d | tLdsbReg o b d | tLdrhReg o b d
  | tLdshReg o b d =>
    simp [encode, decode, decodeThumb, decodeThumb010, decodeThumbRegOffset, fld_hi, fld_lo, bit_hi, -Nat.reduceAdd]
  | tStrImm o b d | tLdrImm o b d | tStrbImm o b d | tLdrbImm o b d =>
    simp [encode, decode, decodeThumb, decodeThumbImmOffset, fld_hi, fld_lo, bit_hi, -Nat.reduceAdd]
  | tStrhImm o b d | tLdrhImm o b d | tStrSp d n | tLdrSp d n =>
    simp [encode, decode, decodeThumb, decodeThumb100, fld_hi, fld_lo, bit_hi, -Nat.reduceAdd]
  | tAddPc d n | tAddSp d n | tIncSp n | tDecSp n | tPush r l | tPop r l =>
    simp [encode, decode, decodeThumb, decodeThumb101, fld_hi, fld_lo, bit_hi, bit_lo, -Nat.reduceAdd]
  | tStmia b l | tLdmia b l =>
    simp [encode, decode, decodeThumb, decodeThumb110, fld_hi, fld_lo, bit_hi, -Nat.reduceAdd]
  | tBeq o | tBne o | tBcs o | tBcc o | tBmi o | tBpl o | tBvs o | tBvc o | tBhi o | tBls o | tBge o | tBlt o | tBgt o
  | tBle o | tUnd o | tSwi o =>
    simp [encode, decode, decodeThumb, decodeThumb110, decodeThumbCond, fld_hi, fld_lo, bit_hi, -Nat.reduceAdd]
  | tB o | tBlFirst o | tBlSecond o =>
    simp [encode, decode, decodeThumb, decodeThumb111, fld_hi, fld_lo, bit_hi, -Nat.reduceAdd]

end Sys2Proof.Machine.Claims
end

section
/-! Decoding, then encoding (R102 to R131): a word is the concatenation of its fields, so where the bits fixed by a format stand in a
word, the format's fields make the word again. Each branch of the decode trees fixes the bits of the formats it leads to. -/

namespace Sys2Proof.Machine.Claims

/-! ## A word as the concatenation of its fields -/

/-- `y` stands in `x` from bit `lo` up. -/
def Reads (x : BitVec w) (lo : Nat) (y : BitVec n) : Prop := fld x lo n = y

theorem Reads.append {x : BitVec w} {k lo m n : Nat} {y : BitVec m} {z : BitVec n} (hy : Reads x k y) (hz : Reads x lo z)
    (adjacent : k = lo + n := by exact rfl) : Reads x lo (y ++ z) := by
  subst adjacent
  rw [Reads, ← fld_append, show fld x (lo + n) m = y from hy, show fld x lo n = z from hz]

theorem Reads.eq {x y : BitVec w} (h : Reads x 0 y) : y = x := h.symm.trans (fld_self x)

theorem reads_fld (x : BitVec w) (lo n : Nat) : Reads x lo (fld x lo n) := rfl

theorem bit_reads {x : BitVec w} {i : Nat} {b : Bool} (h : bit x i = b) : Reads x i (BitVec.ofBool b) := by
  rw [Reads, ← h, ofBool_bit]

theorem condOf_reads (x : Word) : Reads x 28 (condOf x).bits := (Cond.bits_ofBits _).symm

theorem type_reads (x : Word) : Reads x 5 (ShiftType.ofBits (fld x 5 2)).bits := (ShiftType.bits_ofBits _).symm

theorem fld_fld (x : BitVec w) {lo m k n : Nat} (h : k + n ≤ m) : fld (fld x lo m) k n = fld x (lo + k) n := by
  refine BitVec.eq_of_getLsbD_eq fun i hi => ?_
  simp [fld, hi, show k + i < m by omega, Nat.add_assoc]

/-! ## The ARM formats -/

theorem DpImm.toWord_ofWord {x : Word} {op : BitVec 4} (h25 : fld x 25 3 = 0b001#3) (h21 : fld x 21 4 = op) :
    (DpImm.ofWord x).toWord op = x :=
  condOf_reads x |>.append h25 rfl |>.append h21 rfl |>.append (bit_reads rfl) rfl |>.append (reads_fld x 16 4) rfl
    |>.append (reads_fld x 12 4) rfl |>.append (reads_fld x 8 4) rfl |>.append (reads_fld x 0 8) rfl |>.eq

theorem CmpImm.toWord_ofWord {x : Word} {op : BitVec 4} (h25 : fld x 25 3 = 0b001#3) (h21 : fld x 21 4 = op)
    (h20 : bit x 20 = true) : (CmpImm.ofWord x).toWord op = x :=
  condOf_reads x |>.append h25 rfl |>.append h21 rfl |>.append (bit_reads h20) rfl |>.append (reads_fld x 16 4) rfl
    |>.append (reads_fld x 12 4) rfl |>.append (reads_fld x 8 4) rfl |>.append (reads_fld x 0 8) rfl |>.eq

theorem DpReg.toWord_ofWord {x : Word} {op : BitVec 4} (h25 : fld x 25 3 = 0b000#3) (h21 : fld x 21 4 = op)
    (h4 : bit x 4 = false) : (DpReg.ofWord x).toWord op = x :=
  condOf_reads x |>.append h25 rfl |>.append h21 rfl |>.append (bit_reads rfl) rfl |>.append (reads_fld x 16 4) rfl
    |>.append (reads_fld x 12 4) rfl |>.append (reads_fld x 7 5) rfl |>.append (type_reads x) rfl |>.append (bit_reads h4) rfl
    |>.append (reads_fld x 0 4) rfl |>.eq

theorem CmpReg.toWord_ofWord {x : Word} {op : BitVec 4} (h25 : fld x 25 3 = 0b000#3) (h21 : fld x 21 4 = op)
    (h20 : bit x 20 = true) (h4 : bit x 4 = false) : (CmpReg.ofWord x).toWord op = x :=
  condOf_reads x |>.append h25 rfl |>.append h21 rfl |>.append (bit_reads h20) rfl |>.append (reads_fld x 16 4) rfl
    |>.append (reads_fld x 12 4) rfl |>.append (reads_fld x 7 5) rfl |>.append (type_reads x) rfl |>.append (bit_reads h4) rfl
    |>.append (reads_fld x 0 4) rfl |>.eq

theorem DpRsr.toWord_ofWord {x : Word} {op : BitVec 4} (h25 : fld x 25 3 = 0b000#3) (h21 : fld x 21 4 = op)
    (h7 : bit x 7 = false) (h4 : bit x 4 = true) : (DpRsr.ofWord x).toWord op = x :=
  condOf_reads x |>.append h25 rfl |>.append h21 rfl |>.append (bit_reads rfl) rfl |>.append (reads_fld x 16 4) rfl
    |>.append (reads_fld x 12 4) rfl |>.append (reads_fld x 8 4) rfl |>.append (bit_reads h7) rfl |>.append (type_reads x) rfl
    |>.append (bit_reads h4) rfl |>.append (reads_fld x 0 4) rfl |>.eq

theorem CmpRsr.toWord_ofWord {x : Word} {op : BitVec 4} (h25 : fld x 25 3 = 0b000#3) (h21 : fld x 21 4 = op)
    (h20 : bit x 20 = true) (h7 : bit x 7 = false) (h4 : bit x 4 = true) : (CmpRsr.ofWord x).toWord op = x :=
  condOf_reads x |>.append h25 rfl |>.append h21 rfl |>.append (bit_reads h20) rfl |>.append (reads_fld x 16 4) rfl
    |>.append (reads_fld x 12 4) rfl |>.append (reads_fld x 8 4) rfl |>.append (bit_reads h7) rfl |>.append (type_reads x) rfl
    |>.append (bit_reads h4) rfl |>.append (reads_fld x 0 4) rfl |>.eq

theorem MrsFields.toWord_ofWord {x : Word} (h23 : fld x 23 5 = 0b00010#5) (h20 : fld x 20 2 = 0b00#2) (h4 : fld x 4 4 = 0#4) :
    (MrsFields.ofWord x).toWord = x :=
  condOf_reads x |>.append h23 rfl |>.append (bit_reads rfl) rfl |>.append h20 rfl |>.append (reads_fld x 16 4) rfl
    |>.append (reads_fld x 12 4) rfl |>.append (reads_fld x 8 4) rfl |>.append h4 rfl |>.append (reads_fld x 0 4) rfl |>.eq

theorem MsrRegFields.toWord_ofWord {x : Word} (h23 : fld x 23 5 = 0b00010#5) (h20 : fld x 20 2 = 0b10#2)
    (h4 : fld x 4 4 = 0#4) : (MsrRegFields.ofWord x).toWord = x :=
  condOf_reads x |>.append h23 rfl |>.append (bit_reads rfl) rfl |>.append h20 rfl |>.append (reads_fld x 16 4) rfl
    |>.append (reads_fld x 12 4) rfl |>.append (reads_fld x 8 4) rfl |>.append h4 rfl |>.append (reads_fld x 0 4) rfl |>.eq

theorem MsrImmFields.toWord_ofWord {x : Word} (h23 : fld x 23 5 = 0b00110#5) (h20 : fld x 20 2 = 0b10#2) :
    (MsrImmFields.ofWord x).toWord = x :=
  condOf_reads x |>.append h23 rfl |>.append (bit_reads rfl) rfl |>.append h20 rfl |>.append (reads_fld x 16 4) rfl
    |>.append (reads_fld x 12 4) rfl |>.append (reads_fld x 8 4) rfl |>.append (reads_fld x 0 8) rfl |>.eq

theorem BxFields.toWord_ofWord {x : Word} (h20 : fld x 20 8 = 0b00010010#8) (h4 : fld x 4 4 = 0b0001#4) :
    (BxFields.ofWord x).toWord = x :=
  condOf_reads x |>.append h20 rfl |>.append (reads_fld x 8 12) rfl |>.append h4 rfl |>.append (reads_fld x 0 4) rfl |>.eq

theorem MulFields.toWord_ofWord {x : Word} {accumulate : Bool} (h22 : fld x 22 6 = 0b000000#6) (h21 : bit x 21 = accumulate)
    (h4 : fld x 4 4 = 0b1001#4) : (MulFields.ofWord x).toWord accumulate = x :=
  condOf_reads x |>.append h22 rfl |>.append (bit_reads h21) rfl |>.append (bit_reads rfl) rfl
    |>.append (reads_fld x 16 4) rfl |>.append (reads_fld x 12 4) rfl |>.append (reads_fld x 8 4) rfl |>.append h4 rfl
    |>.append (reads_fld x 0 4) rfl |>.eq

theorem MullFields.toWord_ofWord {x : Word} {signed : Bool} {accumulate : Bool} (h23 : fld x 23 5 = 0b00001#5)
    (h22 : bit x 22 = signed) (h21 : bit x 21 = accumulate) (h4 : fld x 4 4 = 0b1001#4) :
    (MullFields.ofWord x).toWord signed accumulate = x :=
  condOf_reads x |>.append h23 rfl |>.append (bit_reads h22) rfl |>.append (bit_reads h21) rfl |>.append (bit_reads rfl) rfl
    |>.append (reads_fld x 16 4) rfl |>.append (reads_fld x 12 4) rfl |>.append (reads_fld x 8 4) rfl |>.append h4 rfl
    |>.append (reads_fld x 0 4) rfl |>.eq

theorem SwpFields.toWord_ofWord {x : Word} {byte : Bool} (h23 : fld x 23 5 = 0b00010#5) (h22 : bit x 22 = byte)
    (h20 : fld x 20 2 = 0b00#2) (h4 : fld x 4 4 = 0b1001#4) : (SwpFields.ofWord x).toWord byte = x :=
  condOf_reads x |>.append h23 rfl |>.append (bit_reads h22) rfl |>.append h20 rfl |>.append (reads_fld x 16 4) rfl
    |>.append (reads_fld x 12 4) rfl |>.append (reads_fld x 8 4) rfl |>.append h4 rfl |>.append (reads_fld x 0 4) rfl |>.eq

theorem HsReg.toWord_ofWord {x : Word} {l : Bool} {sh : BitVec 2} (h25 : fld x 25 3 = 0b000#3) (h22 : bit x 22 = false)
    (h20 : bit x 20 = l) (h7 : bit x 7 = true) (h5 : fld x 5 2 = sh) (h4 : bit x 4 = true) :
    (HsReg.ofWord x).toWord l sh = x :=
  condOf_reads x |>.append h25 rfl |>.append (bit_reads rfl) rfl |>.append (bit_reads rfl) rfl |>.append (bit_reads h22) rfl
    |>.append (bit_reads rfl) rfl |>.append (bit_reads h20) rfl |>.append (reads_fld x 16 4) rfl
    |>.append (reads_fld x 12 4) rfl |>.append (reads_fld x 8 4) rfl |>.append (bit_reads h7) rfl |>.append h5 rfl
    |>.append (bit_reads h4) rfl |>.append (reads_fld x 0 4) rfl |>.eq

theorem HsImm.toWord_ofWord {x : Word} {l : Bool} {sh : BitVec 2} (h25 : fld x 25 3 = 0b000#3) (h22 : bit x 22 = true)
    (h20 : bit x 20 = l) (h7 : bit x 7 = true) (h5 : fld x 5 2 = sh) (h4 : bit x 4 = true) :
    (HsImm.ofWord x).toWord l sh = x :=
  condOf_reads x |>.append h25 rfl |>.append (bit_reads rfl) rfl |>.append (bit_reads rfl) rfl |>.append (bit_reads h22) rfl
    |>.append (bit_reads rfl) rfl |>.append (bit_reads h20) rfl |>.append (reads_fld x 16 4) rfl
    |>.append (reads_fld x 12 4) rfl |>.append (reads_fld x 8 4) rfl |>.append (bit_reads h7) rfl |>.append h5 rfl
    |>.append (bit_reads h4) rfl |>.append (reads_fld x 0 4) rfl |>.eq

theorem SdtImmPre.toWord_ofWord {x : Word} {byte : Bool} {l : Bool} (h25 : fld x 25 3 = 0b010#3) (h24 : bit x 24 = true)
    (h22 : bit x 22 = byte) (h20 : bit x 20 = l) : (SdtImmPre.ofWord x).toWord byte l = x :=
  condOf_reads x |>.append h25 rfl |>.append (bit_reads h24) rfl |>.append (bit_reads rfl) rfl |>.append (bit_reads h22) rfl
    |>.append (bit_reads rfl) rfl |>.append (bit_reads h20) rfl |>.append (reads_fld x 16 4) rfl
    |>.append (reads_fld x 12 4) rfl |>.append (reads_fld x 0 12) rfl |>.eq

theorem SdtImmPost.toWord_ofWord {x : Word} {byte : Bool} {t : Bool} {l : Bool} (h25 : fld x 25 3 = 0b010#3)
    (h24 : bit x 24 = false) (h22 : bit x 22 = byte) (h21 : bit x 21 = t) (h20 : bit x 20 = l) :
    (SdtImmPost.ofWord x).toWord byte t l = x :=
  condOf_reads x |>.append h25 rfl |>.append (bit_reads h24) rfl |>.append (bit_reads rfl) rfl |>.append (bit_reads h22) rfl
    |>.append (bit_reads h21) rfl |>.append (bit_reads h20) rfl |>.append (reads_fld x 16 4) rfl
    |>.append (reads_fld x 12 4) rfl |>.append (reads_fld x 0 12) rfl |>.eq

theorem SdtRegPre.toWord_ofWord {x : Word} {byte : Bool} {l : Bool} (h25 : fld x 25 3 = 0b011#3) (h24 : bit x 24 = true)
    (h22 : bit x 22 = byte) (h20 : bit x 20 = l) (h4 : bit x 4 = false) : (SdtRegPre.ofWord x).toWord byte l = x :=
  condOf_reads x |>.append h25 rfl |>.append (bit_reads h24) rfl |>.append (bit_reads rfl) rfl |>.append (bit_reads h22) rfl
    |>.append (bit_reads rfl) rfl |>.append (bit_reads h20) rfl |>.append (reads_fld x 16 4) rfl
    |>.append (reads_fld x 12 4) rfl |>.append (reads_fld x 7 5) rfl |>.append (type_reads x) rfl |>.append (bit_reads h4) rfl
    |>.append (reads_fld x 0 4) rfl |>.eq

theorem SdtRegPost.toWord_ofWord {x : Word} {byte : Bool} {t : Bool} {l : Bool} (h25 : fld x 25 3 = 0b011#3)
    (h24 : bit x 24 = false) (h22 : bit x 22 = byte) (h21 : bit x 21 = t) (h20 : bit x 20 = l) (h4 : bit x 4 = false) :
    (SdtRegPost.ofWord x).toWord byte t l = x :=
  condOf_reads x |>.append h25 rfl |>.append (bit_reads h24) rfl |>.append (bit_reads rfl) rfl |>.append (bit_reads h22) rfl
    |>.append (bit_reads h21) rfl |>.append (bit_reads h20) rfl |>.append (reads_fld x 16 4) rfl
    |>.append (reads_fld x 12 4) rfl |>.append (reads_fld x 7 5) rfl |>.append (type_reads x) rfl |>.append (bit_reads h4) rfl
    |>.append (reads_fld x 0 4) rfl |>.eq

theorem BdtFields.toWord_ofWord {x : Word} {user : Bool} {l : Bool} (h25 : fld x 25 3 = 0b100#3) (h22 : bit x 22 = user)
    (h20 : bit x 20 = l) : (BdtFields.ofWord x).toWord user l = x :=
  condOf_reads x |>.append h25 rfl |>.append (bit_reads rfl) rfl |>.append (bit_reads rfl) rfl |>.append (bit_reads h22) rfl
    |>.append (bit_reads rfl) rfl |>.append (bit_reads h20) rfl |>.append (reads_fld x 16 4) rfl
    |>.append (reads_fld x 0 16) rfl |>.eq

theorem BdtLowFields.toWord_ofWord {x : Word} {pc : Bool} (h25 : fld x 25 3 = 0b100#3) (h22 : bit x 22 = true)
    (h20 : bit x 20 = true) (h15 : bit x 15 = pc) : (BdtLowFields.ofWord x).toWord pc = x :=
  condOf_reads x |>.append h25 rfl |>.append (bit_reads rfl) rfl |>.append (bit_reads rfl) rfl |>.append (bit_reads h22) rfl
    |>.append (bit_reads rfl) rfl |>.append (bit_reads h20) rfl |>.append (reads_fld x 16 4) rfl |>.append (bit_reads h15) rfl
    |>.append (reads_fld x 0 15) rfl |>.eq

theorem BranchFields.toWord_ofWord {x : Word} {link : Bool} (h25 : fld x 25 3 = 0b101#3) (h24 : bit x 24 = link) :
    (BranchFields.ofWord x).toWord link = x :=
  condOf_reads x |>.append h25 rfl |>.append (bit_reads h24) rfl |>.append (reads_fld x 0 24) rfl |>.eq

theorem UndFields.toWord_ofWord {x : Word} (h25 : fld x 25 3 = 0b011#3) (h4 : bit x 4 = true) :
    (UndFields.ofWord x).toWord = x :=
  condOf_reads x |>.append h25 rfl |>.append (reads_fld x 5 20) rfl |>.append (bit_reads h4) rfl
    |>.append (reads_fld x 0 4) rfl |>.eq

theorem CpdtFields.toWord_ofWord {x : Word} {l : Bool} (h25 : fld x 25 3 = 0b110#3) (h20 : bit x 20 = l) :
    (CpdtFields.ofWord x).toWord l = x :=
  condOf_reads x |>.append h25 rfl |>.append (bit_reads rfl) rfl |>.append (bit_reads rfl) rfl |>.append (bit_reads rfl) rfl
    |>.append (bit_reads rfl) rfl |>.append (bit_reads h20) rfl |>.append (reads_fld x 16 4) rfl
    |>.append (reads_fld x 12 4) rfl |>.append (reads_fld x 8 4) rfl |>.append (reads_fld x 0 8) rfl |>.eq

theorem CdpFields.toWord_ofWord {x : Word} (h24 : fld x 24 4 = 0b1110#4) (h4 : bit x 4 = false) :
    (CdpFields.ofWord x).toWord = x :=
  condOf_reads x |>.append h24 rfl |>.append (reads_fld x 20 4) rfl |>.append (reads_fld x 16 4) rfl
    |>.append (reads_fld x 12 4) rfl |>.append (reads_fld x 8 4) rfl |>.append (reads_fld x 5 3) rfl
    |>.append (bit_reads h4) rfl |>.append (reads_fld x 0 4) rfl |>.eq

theorem CrtFields.toWord_ofWord {x : Word} {l : Bool} (h24 : fld x 24 4 = 0b1110#4) (h20 : bit x 20 = l) (h4 : bit x 4 = true) :
    (CrtFields.ofWord x).toWord l = x :=
  condOf_reads x |>.append h24 rfl |>.append (reads_fld x 21 3) rfl |>.append (bit_reads h20) rfl
    |>.append (reads_fld x 16 4) rfl |>.append (reads_fld x 12 4) rfl |>.append (reads_fld x 8 4) rfl
    |>.append (reads_fld x 5 3) rfl |>.append (bit_reads h4) rfl |>.append (reads_fld x 0 4) rfl |>.eq

theorem SwiFields.toWord_ofWord {x : Word} (h24 : fld x 24 4 = 0b1111#4) : (SwiFields.ofWord x).toWord = x :=
  condOf_reads x |>.append h24 rfl |>.append (reads_fld x 0 24) rfl |>.eq

/-! ## The ARM decode tree -/

theorem eq_three : ∀ b : BitVec 2, b ≠ 0#2 → b ≠ 1#2 → b ≠ 2#2 → b = 3#2 := by decide

theorem eq_seven : ∀ b : BitVec 3, (b = 0#3 → False) → (b = 1#3 → False) → (b = 2#3 → False) → (b = 3#3 → False) →
    (b = 4#3 → False) → (b = 5#3 → False) → (b = 6#3 → False) → b = 7#3 := by
  decide

/-- The last opcode is what is left when the 15 before it are not it. -/
theorem eq_fifteen : ∀ b : BitVec 4, (b = 0#4 → False) → (b = 1#4 → False) → (b = 2#4 → False) → (b = 3#4 → False) →
    (b = 4#4 → False) → (b = 5#4 → False) → (b = 6#4 → False) → (b = 7#4 → False) → (b = 8#4 → False) → (b = 9#4 → False) →
    (b = 10#4 → False) → (b = 11#4 → False) → (b = 12#4 → False) → (b = 13#4 → False) → (b = 14#4 → False) → b = 15#4 := by
  decide

/-- Where the opcode is a compare's and the word is not in the space of MRS, MSR and BX, S is 1 (R105, R128). -/
theorem bit_of_compare {x : Word} {op : BitVec 4} (h : fld x 21 4 = op) (hs : ¬(fld x 23 2 = 0b10#2 ∧ bit x 20 = false))
    (compare : fld op 2 2 = 0b10#2 := by rfl) : bit x 20 = true := by
  by_contra h20
  refine hs ⟨?_, Bool.not_eq_true _ ▸ h20⟩
  rw [← compare, ← h, fld_fld x (by decide)]

theorem encode_decodeDpImm {x : Word} (h25 : fld x 25 3 = 0b001#3) (hs : ¬(fld x 23 2 = 0b10#2 ∧ bit x 20 = false)) :
    encode (decodeDpImm x) = .arm x := by
  unfold decodeDpImm
  split
  case h_9 h | h_10 h | h_11 h | h_12 h => exact congrArg Code.arm (CmpImm.toWord_ofWord h25 h (bit_of_compare h hs))
  case h_16 => exact congrArg Code.arm (DpImm.toWord_ofWord h25 (by apply eq_fifteen <;> assumption))
  all_goals exact congrArg Code.arm (DpImm.toWord_ofWord h25 ‹_›)

theorem encode_decodeDpReg {x : Word} (h25 : fld x 25 3 = 0b000#3) (h4 : bit x 4 = false)
    (hs : ¬(fld x 23 2 = 0b10#2 ∧ bit x 20 = false)) : encode (decodeDpReg x) = .arm x := by
  unfold decodeDpReg
  split
  case h_9 h | h_10 h | h_11 h | h_12 h => exact congrArg Code.arm (CmpReg.toWord_ofWord h25 h (bit_of_compare h hs) h4)
  case h_16 => exact congrArg Code.arm (DpReg.toWord_ofWord h25 (by apply eq_fifteen <;> assumption) h4)
  all_goals exact congrArg Code.arm (DpReg.toWord_ofWord h25 ‹_› h4)

theorem encode_decodeDpRsr {x : Word} (h25 : fld x 25 3 = 0b000#3) (h7 : bit x 7 = false) (h4 : bit x 4 = true)
    (hs : ¬(fld x 23 2 = 0b10#2 ∧ bit x 20 = false)) : encode (decodeDpRsr x) = .arm x := by
  unfold decodeDpRsr
  split
  case h_9 h | h_10 h | h_11 h | h_12 h =>
    exact congrArg Code.arm (CmpRsr.toWord_ofWord h25 h (bit_of_compare h hs) h7 h4)
  case h_16 => exact congrArg Code.arm (DpRsr.toWord_ofWord h25 (by apply eq_fifteen <;> assumption) h7 h4)
  all_goals exact congrArg Code.arm (DpRsr.toWord_ofWord h25 ‹_› h7 h4)

/-- Bits 7 to 4 of a word of the multiplies and swaps (R110 to R112). -/
theorem reads_multiply {x : Word} (h7 : bit x 7 = true) (h5 : fld x 5 2 = 0b00#2) (h4 : bit x 4 = true) :
    fld x 4 4 = 0b1001#4 :=
  bit_reads h7 |>.append h5 |>.append (bit_reads h4)

theorem encode_of_decodeExtension {x : Word} (h25 : fld x 25 3 = 0b000#3) (h7 : bit x 7 = true) (h4 : bit x 4 = true) :
    ∀ i, decodeExtension x = .ok i → encode i = .arm x := by
  unfold decodeExtension
  split
  · next h5 =>
    have low := reads_multiply h7 h5 h4
    split
    · next mul =>
      obtain ⟨h23, h22⟩ := mul
      have h22' : fld x 22 6 = 0b000000#6 := Reads.append h23 (bit_reads h22)
      cases h21 : bit x 21 <;> rintro i ⟨⟩ <;> exact congrArg Code.arm (MulFields.toWord_ofWord h22' h21 low)
    split
    · next h23 =>
      cases h22 : bit x 22 <;> cases h21 : bit x 21 <;> rintro i ⟨⟩ <;>
        exact congrArg Code.arm (MullFields.toWord_ofWord h23 h22 h21 low)
    split
    · next swap =>
      cases h22 : bit x 22 <;> rintro i ⟨⟩ <;> exact congrArg Code.arm (SwpFields.toWord_ofWord swap.1 h22 swap.2 low)
    · rintro i ⟨⟩
  · next h0 =>
    split
    · next h5 =>
      cases h20 : bit x 20 <;> cases h22 : bit x 22 <;> rintro i ⟨⟩ <;> apply congrArg Code.arm
      · exact HsReg.toWord_ofWord h25 h22 h20 h7 h5 h4
      · exact HsImm.toWord_ofWord h25 h22 h20 h7 h5 h4
      · exact HsReg.toWord_ofWord h25 h22 h20 h7 h5 h4
      · exact HsImm.toWord_ofWord h25 h22 h20 h7 h5 h4
    · next h1 =>
      cases h20 : bit x 20
      · rintro i ⟨⟩
      · rintro i ⟨⟩
        split
        · next h5 =>
          cases h22 : bit x 22
          · exact congrArg Code.arm (HsReg.toWord_ofWord h25 h22 h20 h7 h5 h4)
          · exact congrArg Code.arm (HsImm.toWord_ofWord h25 h22 h20 h7 h5 h4)
        · next h2 =>
          have h5 : fld x 5 2 = 0b11#2 := eq_three _ h0 h1 h2
          cases h22 : bit x 22
          · exact congrArg Code.arm (HsReg.toWord_ofWord h25 h22 h20 h7 h5 h4)
          · exact congrArg Code.arm (HsImm.toWord_ofWord h25 h22 h20 h7 h5 h4)

theorem encode_of_decodeMisc {x : Word} (h25 : fld x 25 3 = 0b000#3) (h23 : fld x 23 2 = 0b10#2) :
    ∀ i, decodeMisc x = .ok i → encode i = .arm x := by
  have h23' : fld x 23 5 = 0b00010#5 := Reads.append h25 h23
  unfold decodeMisc
  split
  · next h =>
    rintro i ⟨⟩
    exact congrArg Code.arm (MrsFields.toWord_ofWord h23' h.1 h.2)
  split
  · next h =>
    rintro i ⟨⟩
    exact congrArg Code.arm (MsrRegFields.toWord_ofWord h23' h.1 h.2)
  split
  · next h =>
    rintro i ⟨⟩
    exact congrArg Code.arm (BxFields.toWord_ofWord h.1 h.2)
  · rintro i ⟨⟩

theorem encode_decodeSdtImm {x : Word} (h25 : fld x 25 3 = 0b010#3) : encode (decodeSdtImm x) = .arm x := by
  unfold decodeSdtImm
  cases h24 : bit x 24
  · cases h21 : bit x 21 <;> cases h22 : bit x 22 <;> cases h20 : bit x 20 <;>
      exact congrArg Code.arm (SdtImmPost.toWord_ofWord h25 h24 h22 h21 h20)
  · cases h22 : bit x 22 <;> cases h20 : bit x 20 <;> exact congrArg Code.arm (SdtImmPre.toWord_ofWord h25 h24 h22 h20)

theorem encode_decodeSdtReg {x : Word} (h25 : fld x 25 3 = 0b011#3) (h4 : bit x 4 = false) :
    encode (decodeSdtReg x) = .arm x := by
  unfold decodeSdtReg
  cases h24 : bit x 24
  · cases h21 : bit x 21 <;> cases h22 : bit x 22 <;> cases h20 : bit x 20 <;>
      exact congrArg Code.arm (SdtRegPost.toWord_ofWord h25 h24 h22 h21 h20 h4)
  · cases h22 : bit x 22 <;> cases h20 : bit x 20 <;>
      exact congrArg Code.arm (SdtRegPre.toWord_ofWord h25 h24 h22 h20 h4)

theorem encode_decodeBlock {x : Word} (h25 : fld x 25 3 = 0b100#3) : encode (decodeBlock x) = .arm x := by
  unfold decodeBlock
  cases h20 : bit x 20 <;> cases h22 : bit x 22
  case true.true =>
    cases h15 : bit x 15 <;> exact congrArg Code.arm (BdtLowFields.toWord_ofWord h25 h22 h20 h15)
  all_goals exact congrArg Code.arm (BdtFields.toWord_ofWord h25 h22 h20)

theorem encode_decodeHigh {x : Word} (h25 : fld x 25 3 = 0b111#3) : encode (decodeHigh x) = .arm x := by
  unfold decodeHigh
  cases h24 : bit x 24
  · have h24' : fld x 24 4 = 0b1110#4 := Reads.append h25 (bit_reads h24)
    cases h4 : bit x 4
    · exact congrArg Code.arm (CdpFields.toWord_ofWord h24' h4)
    · cases h20 : bit x 20 <;> exact congrArg Code.arm (CrtFields.toWord_ofWord h24' h20 h4)
  · exact congrArg Code.arm (SwiFields.toWord_ofWord (Reads.append h25 (bit_reads h24)))

theorem encode_of_decodeArm (x : Word) : ∀ i, decodeArm x = .ok i → encode i = .arm x := by
  unfold decodeArm
  split
  · next h25 =>
    split
    · next h => exact encode_of_decodeExtension h25 h.2 h.1
    · next h47 =>
      split
      · next h => exact encode_of_decodeMisc h25 h.1
      · next hs =>
        rintro i ⟨⟩
        cases h4 : bit x 4
        · exact encode_decodeDpReg h25 h4 hs
        · exact encode_decodeDpRsr h25 (Bool.not_eq_true _ ▸ fun h7 => h47 ⟨h4, h7⟩) h4 hs
  split
  · next h25 =>
    split
    · next h =>
      cases h21 : bit x 21
      · rintro i ⟨⟩
      · rintro i ⟨⟩
        exact congrArg Code.arm (MsrImmFields.toWord_ofWord (Reads.append h25 h.1)
          (Reads.append (bit_reads h21) (bit_reads h.2)))
    · next hs =>
      rintro i ⟨⟩
      exact encode_decodeDpImm h25 hs
  split
  · next h25 =>
    rintro i ⟨⟩
    exact encode_decodeSdtImm h25
  split
  · next h25 =>
    rintro i ⟨⟩
    cases h4 : bit x 4
    · exact encode_decodeSdtReg h25 h4
    · exact congrArg Code.arm (UndFields.toWord_ofWord h25 h4)
  split
  · next h25 =>
    rintro i ⟨⟩
    exact encode_decodeBlock h25
  split
  · next h25 =>
    cases h24 : bit x 24 <;> rintro i ⟨⟩ <;> exact congrArg Code.arm (BranchFields.toWord_ofWord h25 h24)
  split
  · next h25 =>
    cases h20 : bit x 20 <;> rintro i ⟨⟩ <;> exact congrArg Code.arm (CpdtFields.toWord_ofWord h25 h20)
  · next n0 n1 n2 n3 n4 n5 n6 =>
    rintro i ⟨⟩
    exact encode_decodeHigh (eq_seven _ n0 n1 n2 n3 n4 n5 n6)

/-! ## The THUMB decode tree -/

section
variable {h : Half}

theorem encode_decodeThumb000 (h13 : fld h 13 3 = 0b000#3) : encode (decodeThumb000 h) = .thumb h := by
  have shifted {op : BitVec 2} (h11 : fld h 11 2 = op) : 0b000#3 ++ op ++ fld h 6 5 ++ fld h 3 3 ++ fld h 0 3 = h :=
    Reads.append h13 h11 |>.append (reads_fld h _ _) |>.append (reads_fld h _ _) |>.append (reads_fld h _ _) |>.eq
  unfold decodeThumb000
  split
  · next h11 => exact congrArg Code.thumb (shifted h11)
  split
  · next h11 => exact congrArg Code.thumb (shifted h11)
  split
  · next h11 => exact congrArg Code.thumb (shifted h11)
  · next n0 n1 n2 =>
    have h11 : fld h 11 5 = 0b00011#5 := Reads.append h13 (eq_three _ n0 n1 n2)
    cases h10 : bit h 10 <;> cases h9 : bit h 9 <;>
      exact congrArg Code.thumb (Reads.append h11 (bit_reads h10) |>.append (bit_reads h9) |>.append (reads_fld h _ _)
        |>.append (reads_fld h _ _) |>.append (reads_fld h _ _) |>.eq)

theorem encode_decodeThumb001 (h13 : fld h 13 3 = 0b001#3) : encode (decodeThumb001 h) = .thumb h := by
  unfold decodeThumb001
  cases h12 : bit h 12 <;> cases h11 : bit h 11 <;>
    exact congrArg Code.thumb (Reads.append h13 (bit_reads h12 |>.append (bit_reads h11)) |>.append (reads_fld h _ _)
      |>.append (reads_fld h _ _) |>.eq)

theorem encode_decodeThumbAlu (h10 : fld h 10 6 = 0b010000#6) : encode (decodeThumbAlu h) = .thumb h := by
  have whole {op : BitVec 4} (h6 : fld h 6 4 = op) : 0b010000#6 ++ op ++ fld h 3 3 ++ fld h 0 3 = h :=
    Reads.append h10 h6 |>.append (reads_fld h _ _) |>.append (reads_fld h _ _) |>.eq
  unfold decodeThumbAlu
  split
  case h_16 => exact congrArg Code.thumb (whole (by apply eq_fifteen <;> assumption))
  all_goals exact congrArg Code.thumb (whole ‹_›)

theorem encode_of_decodeThumbHigh (h10 : fld h 10 6 = 0b010001#6) :
    ∀ i, decodeThumbHigh h = .ok i → encode i = .thumb h := by
  have whole {op : BitVec 2} (h8 : fld h 8 2 = op) :
      0b010001#6 ++ op ++ BitVec.ofBool (bit h 7) ++ BitVec.ofBool (bit h 6) ++ fld h 3 3 ++ fld h 0 3 = h :=
    Reads.append h10 h8 |>.append (bit_reads rfl) |>.append (bit_reads rfl) |>.append (reads_fld h _ _)
      |>.append (reads_fld h _ _) |>.eq
  unfold decodeThumbHigh
  cases h9 : bit h 9
  · cases h8 : bit h 8
    · rintro i ⟨⟩
      exact congrArg Code.thumb (whole (op := 0#2) (Reads.append (bit_reads h9) (bit_reads h8)))
    · rintro i ⟨⟩
      exact congrArg Code.thumb (whole (op := 1#2) (Reads.append (bit_reads h9) (bit_reads h8)))
  · cases h8 : bit h 8
    · rintro i ⟨⟩
      exact congrArg Code.thumb (whole (op := 2#2) (Reads.append (bit_reads h9) (bit_reads h8)))
    · cases h7 : bit h 7
      · rintro i ⟨⟩
        have h7' : fld h 7 9 = 0b010001110#9 :=
          Reads.append h10 (bit_reads h9) |>.append (bit_reads h8) |>.append (bit_reads h7)
        exact congrArg Code.thumb
          (Reads.append h7' (bit_reads rfl) |>.append (reads_fld h _ _) |>.append (reads_fld h _ _) |>.eq)
      · rintro i ⟨⟩

theorem encode_decodeThumbRegOffset (h12 : fld h 12 4 = 0b0101#4) : encode (decodeThumbRegOffset h) = .thumb h := by
  unfold decodeThumbRegOffset
  cases h9 : bit h 9 <;> cases h11 : bit h 11 <;> cases h10 : bit h 10 <;>
    exact congrArg Code.thumb (Reads.append h12 (bit_reads h11 |>.append (bit_reads h10)) |>.append (bit_reads h9)
      |>.append (reads_fld h _ _) |>.append (reads_fld h _ _) |>.append (reads_fld h _ _) |>.eq)

theorem encode_of_decodeThumb010 (h13 : fld h 13 3 = 0b010#3) :
    ∀ i, decodeThumb010 h = .ok i → encode i = .thumb h := by
  unfold decodeThumb010
  cases h12 : bit h 12
  · have h12' : fld h 12 4 = 0b0100#4 := Reads.append h13 (bit_reads h12)
    cases h11 : bit h 11
    · have h11' : fld h 11 5 = 0b01000#5 := Reads.append h12' (bit_reads h11)
      cases h10 : bit h 10
      · rintro i ⟨⟩
        exact encode_decodeThumbAlu (Reads.append h11' (bit_reads h10))
      · exact encode_of_decodeThumbHigh (Reads.append h11' (bit_reads h10))
    · rintro i ⟨⟩
      exact congrArg Code.thumb
        (Reads.append h12' (bit_reads h11) |>.append (reads_fld h _ _) |>.append (reads_fld h _ _) |>.eq)
  · rintro i ⟨⟩
    exact encode_decodeThumbRegOffset (Reads.append h13 (bit_reads h12))

theorem encode_decodeThumbImmOffset (h13 : fld h 13 3 = 0b011#3) : encode (decodeThumbImmOffset h) = .thumb h := by
  unfold decodeThumbImmOffset
  cases h12 : bit h 12 <;> cases h11 : bit h 11 <;>
    exact congrArg Code.thumb (Reads.append h13 (bit_reads h12 |>.append (bit_reads h11)) |>.append (reads_fld h _ _)
      |>.append (reads_fld h _ _) |>.append (reads_fld h _ _) |>.eq)

theorem encode_decodeThumb100 (h13 : fld h 13 3 = 0b100#3) : encode (decodeThumb100 h) = .thumb h := by
  unfold decodeThumb100
  cases h12 : bit h 12
  · have h12' : fld h 12 4 = 0b1000#4 := Reads.append h13 (bit_reads h12)
    cases h11 : bit h 11 <;>
      exact congrArg Code.thumb (Reads.append h12' (bit_reads h11) |>.append (reads_fld h _ _) |>.append (reads_fld h _ _)
        |>.append (reads_fld h _ _) |>.eq)
  · have h12' : fld h 12 4 = 0b1001#4 := Reads.append h13 (bit_reads h12)
    cases h11 : bit h 11 <;>
      exact congrArg Code.thumb (Reads.append h12' (bit_reads h11) |>.append (reads_fld h _ _) |>.append (reads_fld h _ _) |>.eq)

theorem encode_of_decodeThumb101 (h13 : fld h 13 3 = 0b101#3) :
    ∀ i, decodeThumb101 h = .ok i → encode i = .thumb h := by
  unfold decodeThumb101
  cases h12 : bit h 12
  · have h12' : fld h 12 4 = 0b1010#4 := Reads.append h13 (bit_reads h12)
    cases h11 : bit h 11 <;> rintro i ⟨⟩ <;>
      exact congrArg Code.thumb (Reads.append h12' (bit_reads h11) |>.append (reads_fld h _ _) |>.append (reads_fld h _ _) |>.eq)
  · have h12' : fld h 12 4 = 0b1011#4 := Reads.append h13 (bit_reads h12)
    rw [if_pos rfl]
    split
    · next sp =>
      have h8 : fld h 8 8 = 0b10110000#8 := Reads.append h12' sp.1 |>.append (bit_reads sp.2)
      cases h7 : bit h 7 <;> rintro i ⟨⟩ <;>
        exact congrArg Code.thumb (Reads.append h8 (bit_reads h7) |>.append (reads_fld h _ _) |>.eq)
    split
    · next h9 =>
      have whole {op : BitVec 3} (h9 : fld h 9 3 = op) : 0b1011#4 ++ op ++ BitVec.ofBool (bit h 8) ++ fld h 0 8 = h :=
        Reads.append h12' h9 |>.append (bit_reads rfl) |>.append (reads_fld h _ _) |>.eq
      cases h11 : bit h 11 <;> rintro i ⟨⟩
      · exact congrArg Code.thumb (whole (op := 0b010#3) (Reads.append (bit_reads h11) h9))
      · exact congrArg Code.thumb (whole (op := 0b110#3) (Reads.append (bit_reads h11) h9))
    · rintro i ⟨⟩

theorem encode_decodeThumbCond (h12 : fld h 12 4 = 0b1101#4) : encode (decodeThumbCond h) = .thumb h := by
  have whole {op : BitVec 4} (h8 : fld h 8 4 = op) : 0b1101#4 ++ op ++ fld h 0 8 = h :=
    Reads.append h12 h8 |>.append (reads_fld h _ _) |>.eq
  unfold decodeThumbCond
  split
  case h_15 h8 =>
    have h8' : fld h 8 8 = 0b11011110#8 := Reads.append h12 h8
    exact congrArg Code.thumb (Reads.append h8' (reads_fld h _ _) |>.eq)
  case h_16 =>
    have h8 : fld h 8 8 = 0b11011111#8 := 
      Reads.append h12 (show fld h 8 4 = 15#4 by apply eq_fifteen <;> assumption)
    exact congrArg Code.thumb (Reads.append h8 (reads_fld h _ _) |>.eq)
  all_goals exact congrArg Code.thumb (whole ‹_›)

theorem encode_decodeThumb110 (h13 : fld h 13 3 = 0b110#3) : encode (decodeThumb110 h) = .thumb h := by
  unfold decodeThumb110
  cases h12 : bit h 12
  · have h12' : fld h 12 4 = 0b1100#4 := Reads.append h13 (bit_reads h12)
    cases h11 : bit h 11 <;>
      exact congrArg Code.thumb (Reads.append h12' (bit_reads h11) |>.append (reads_fld h _ _) |>.append (reads_fld h _ _) |>.eq)
  · exact encode_decodeThumbCond (Reads.append h13 (bit_reads h12))

theorem encode_of_decodeThumb111 (h13 : fld h 13 3 = 0b111#3) :
    ∀ i, decodeThumb111 h = .ok i → encode i = .thumb h := by
  have whole {op : BitVec 5} (h11 : fld h 11 5 = op) : op ++ fld h 0 11 = h := Reads.append h11 (reads_fld h _ _) |>.eq
  unfold decodeThumb111
  cases h12 : bit h 12 <;> cases h11 : bit h 11 <;> rintro i ⟨⟩
  · exact congrArg Code.thumb (whole (op := 0b11100#5) (Reads.append h13 (bit_reads h12) |>.append (bit_reads h11)))
  · exact congrArg Code.thumb (whole (op := 0b11110#5) (Reads.append h13 (bit_reads h12) |>.append (bit_reads h11)))
  · exact congrArg Code.thumb (whole (op := 0b11111#5) (Reads.append h13 (bit_reads h12) |>.append (bit_reads h11)))

theorem encode_of_decodeThumb : ∀ i, decodeThumb h = .ok i → encode i = .thumb h := by
  unfold decodeThumb
  split
  · next h13 =>
    rintro i ⟨⟩
    exact encode_decodeThumb000 h13
  split
  · next h13 =>
    rintro i ⟨⟩
    exact encode_decodeThumb001 h13
  split
  · next h13 => exact encode_of_decodeThumb010 h13
  split
  · next h13 =>
    rintro i ⟨⟩
    exact encode_decodeThumbImmOffset h13
  split
  · next h13 =>
    rintro i ⟨⟩
    exact encode_decodeThumb100 h13
  split
  · next h13 => exact encode_of_decodeThumb101 h13
  split
  · next h13 =>
    rintro i ⟨⟩
    exact encode_decodeThumb110 h13
  · next n0 n1 n2 n3 n4 n5 n6 => exact encode_of_decodeThumb111 (eq_seven _ n0 n1 n2 n3 n4 n5 n6)

end

/-- Settles O5: along the decode trees, each leaf by its format. -/
theorem encodeOfDecode : Obligations.EncodeOfDecode := by
  rintro (x | h) i e
  · exact encode_of_decodeArm x i e
  · exact encode_of_decodeThumb i e

end Sys2Proof.Machine.Claims
end

section
/-! The words with no row (R131): where the decode trees reject, as a proposition on the bits of the word, and the patterns of R131 as
the same proposition. -/

namespace Sys2Proof.Machine.Claims

/-! ## Bits as numbers -/

theorem toNat_fld (x : BitVec w) (lo n : Nat) : (fld x lo n).toNat = x.toNat / 2 ^ lo % 2 ^ n := by
  rw [fld, BitVec.extractLsb'_toNat, Nat.shiftRight_eq_div_pow]

theorem fld_eq_iff (x : BitVec w) (lo n : Nat) (c : BitVec n) : fld x lo n = c ↔ x.toNat / 2 ^ lo % 2 ^ n = c.toNat := by
  rw [← BitVec.toNat_inj, toNat_fld]

theorem bit_iff (x : BitVec w) (i : Nat) : bit x i = true ↔ x.toNat / 2 ^ i % 2 = 1 := by
  rw [bit, beq_iff_eq, fld_eq_iff]
  rfl

theorem bit_false_iff (x : BitVec w) (i : Nat) : bit x i = false ↔ x.toNat / 2 ^ i % 2 = 0 := by
  rw [← Bool.not_eq_true, bit_iff]
  omega

/-! ## Where a decode tree rejects -/

/-- The decoder names no instruction. -/
def Rejects (e : Except Reject Instr) : Prop := ∀ i, e ≠ .ok i

@[simp] theorem rejects_error (r : Reject) : Rejects (.error r) ↔ True := ⟨fun _ => trivial, fun _ _ => nofun⟩

@[simp] theorem rejects_ok (i : Instr) : Rejects (.ok i) ↔ False := ⟨fun h => h i rfl, False.elim⟩

@[simp] theorem rejects_ite (p : Prop) [Decidable p] (a b : Except Reject Instr) :
    Rejects (if p then a else b) ↔ (p ∧ Rejects a) ∨ (¬p ∧ Rejects b) := by
  split <;> simp [*]

theorem rejects_decodeThumb_iff (h : Half) : Rejects (decodeThumb h) ↔ thumbNoRow h.toNat := by
  have := h.isLt
  unfold decodeThumb decodeThumb010 decodeThumbHigh decodeThumb101 decodeThumb111 thumbNoRow
  simp only [rejects_ite, rejects_ok, rejects_error, and_false, or_false, false_or, and_true, fld_eq_iff, bit_iff, bit_false_iff,
    BitVec.toNat_ofNat]
  omega

theorem getLsbD_fld (x : BitVec w) {lo n i : Nat} (h : i < n) : (fld x lo n).getLsbD i = bit x (lo + i) := by
  rw [fld, BitVec.getLsbD_extractLsb', decide_eq_true h, Bool.true_and, Bool.eq_iff_iff, bit_iff, BitVec.getLsbD,
    Nat.testBit_eq_decide_div_mod_eq, decide_eq_true_iff]

/-- R131's patterns for an ARM word, by the fields of the word. -/
theorem armNoRow_iff (x : Word) : armNoRow (fld x 20 8) (fld x 4 4) ↔
    (fld x 4 4 = 0b1001#4 ∧ fld x 22 6 = 0b000001#6) ∨
    (fld x 4 4 = 0b1001#4 ∧ fld x 23 5 = 0b00010#5 ∧ ¬fld x 20 2 = 0b00#2) ∨
    (fld x 4 4 = 0b1001#4 ∧ fld x 23 5 = 0b00011#5) ∨
    ((fld x 4 4 = 0b1101#4 ∨ fld x 4 4 = 0b1111#4) ∧ fld x 25 3 = 0b000#3 ∧ bit x 20 = false) ∨
    (fld x 23 5 = 0b00010#5 ∧ bit x 20 = false ∧ (bit x 7 = false ∨ bit x 4 = false) ∧ ¬fld x 4 4 = 0b0000#4 ∧
      ¬(fld x 20 8 = 0b00010010#8 ∧ fld x 4 4 = 0b0001#4)) ∨
    (fld x 23 5 = 0b00110#5 ∧ fld x 20 2 = 0b00#2) := by
  have sub {lo m k n : Nat} (h : k + n ≤ m) : (fld x lo m).extractLsb' k n = fld x (lo + k) n := fld_fld x h
  unfold armNoRow
  rw [sub (by decide), sub (by decide), sub (by decide), sub (by decide), getLsbD_fld x (by decide),
    getLsbD_fld x (by decide), getLsbD_fld x (by decide)]

/-- The fields the ARM decode tree reads, as sums of the disjoint fields of bits 4, 5 to 6, 7, 20, 21, 22, 23 to 24 and 25 to 27. -/
theorem split_fields (n : Nat) :
    n / 2 ^ 4 % 2 ^ 4 = n / 2 ^ 4 % 2 + 2 * (n / 2 ^ 5 % 2 ^ 2) + 8 * (n / 2 ^ 7 % 2) ∧
    n / 2 ^ 20 % 2 ^ 2 = n / 2 ^ 20 % 2 + 2 * (n / 2 ^ 21 % 2) ∧
    n / 2 ^ 23 % 2 ^ 5 = n / 2 ^ 23 % 2 ^ 2 + 4 * (n / 2 ^ 25 % 2 ^ 3) ∧
    n / 2 ^ 22 % 2 ^ 6 = n / 2 ^ 22 % 2 + 2 * (n / 2 ^ 23 % 2 ^ 5) ∧
    n / 2 ^ 20 % 2 ^ 8 = n / 2 ^ 20 % 2 ^ 2 + 4 * (n / 2 ^ 22 % 2 ^ 6) := by omega

theorem rejects_decodeExtension_iff {x : Word} (h25 : fld x 25 3 = 0b000#3) (h7 : bit x 7 = true) (h4 : bit x 4 = true) :
    Rejects (decodeExtension x) ↔ armNoRow (fld x 20 8) (fld x 4 4) := by
  rw [armNoRow_iff]
  unfold decodeExtension
  simp only [rejects_ite, rejects_ok, rejects_error, and_false, false_or, and_true, fld_eq_iff, bit_iff, bit_false_iff,
    BitVec.toNat_ofNat] at *
  obtain ⟨e4, e20, e23, e22, e⟩ := split_fields x.toNat
  rw [e, e22, e23, e20, e4, h4, h7, h25]
  clear e4 e20 e23 e22 e
  obtain h5 | h5 | h5 | h5 : x.toNat / 2 ^ 5 % 2 ^ 2 = 0 ∨ x.toNat / 2 ^ 5 % 2 ^ 2 = 1 ∨ x.toNat / 2 ^ 5 % 2 ^ 2 = 2 ∨
    x.toNat / 2 ^ 5 % 2 ^ 2 = 3 := by omega
  all_goals rw [h5]; clear h5; omega

theorem rejects_decodeMisc_iff {x : Word} (h25 : fld x 25 3 = 0b000#3) (h : ¬(bit x 4 = true ∧ bit x 7 = true))
    (h23 : fld x 23 2 = 0b10#2) (h20 : bit x 20 = false) :
    Rejects (decodeMisc x) ↔ armNoRow (fld x 20 8) (fld x 4 4) := by
  rw [armNoRow_iff]
  unfold decodeMisc
  simp only [rejects_ite, rejects_ok, rejects_error, and_false, false_or, and_true, fld_eq_iff, bit_iff, bit_false_iff,
    BitVec.toNat_ofNat] at *
  obtain ⟨e4, e20, e23, e22, e⟩ := split_fields x.toNat
  rw [e, e22, e23, e20, e4, h20, h23, h25]
  clear e4 e20 e23 e22 e
  omega

/-- The patterns of R131 outside the extension and the miscellaneous space: the immediate words with no row. -/
theorem armNoRow_iff_immediate {x : Word} (extension : ¬(fld x 25 3 = 0b000#3 ∧ bit x 4 = true ∧ bit x 7 = true))
    (misc : ¬(fld x 25 3 = 0b000#3 ∧ fld x 23 2 = 0b10#2 ∧ bit x 20 = false)) :
    armNoRow (fld x 20 8) (fld x 4 4) ↔
      fld x 25 3 = 0b001#3 ∧ fld x 23 2 = 0b10#2 ∧ bit x 20 = false ∧ bit x 21 = false := by
  rw [armNoRow_iff]
  simp only [fld_eq_iff, bit_iff, bit_false_iff, BitVec.toNat_ofNat] at *
  obtain ⟨e4, e20, e23, e22, e⟩ := split_fields x.toNat
  rw [e, e22, e23, e20, e4]
  clear e4 e20 e23 e22 e
  omega

theorem rejects_decodeArm_iff (x : Word) : Rejects (decodeArm x) ↔ armNoRow (fld x 20 8) (fld x 4 4) := by
  by_cases h25 : fld x 25 3 = 0b000#3
  · by_cases h4 : bit x 4 = true ∧ bit x 7 = true
    · rw [← rejects_decodeExtension_iff h25 h4.2 h4.1, decodeArm, if_pos h25, if_pos h4]
    · by_cases h23 : fld x 23 2 = 0b10#2 ∧ bit x 20 = false
      · rw [← rejects_decodeMisc_iff h25 h4 h23.1 h23.2, decodeArm, if_pos h25, if_neg h4, if_pos h23]
      · rw [armNoRow_iff_immediate (fun h => h4 h.2) (fun h => h23 h.2), decodeArm, if_pos h25, if_neg h4, if_neg h23]
        simp [h25]
  · rw [armNoRow_iff_immediate (fun h => h25 h.1) (fun h => h25 h.1), decodeArm, if_neg h25]
    simp [and_assoc]

/-- Settles O7: the decode tree by its sub-trees, each against the patterns by arithmetic on the word's disjoint fields. -/
theorem wordsWithNoRow : Obligations.WordsWithNoRow := ⟨rejects_decodeArm_iff, rejects_decodeThumb_iff⟩

end Sys2Proof.Machine.Claims
end

section
/-! Statements about single pieces of the model: reset, words the spec names, the awake step, register 15, effective addresses. -/

namespace Sys2Proof.Machine.Claims

/-! ## Reset -/

theorem inv_resetWith {image : Memory} (plat : Platform) (h : image.wf = true) : (State.resetWith image plat).Inv :=
  ⟨h, show alignPc false 0#32 = 0#32 by decide, rfl⟩

/-- Settles O2: reset is construction with the empty image, and what construction accepts is canonical. -/
theorem resetMeetsInvariant : Obligations.ResetMeetsInvariant :=
  ⟨inv_resetWith _ rfl, fun image plat accepted =>
    ⟨State.resetWith image plat, mem_construct_iff.2 ⟨accepted, rfl⟩, inv_resetWith plat accepted⟩⟩

/-! ## Example words -/

/-- Settles O6: each word is decoded by evaluation. -/
theorem decodedWords : Obligations.DecodedWords :=
  ⟨rfl, rfl, rfl, rfl, rfl, rfl, rfl, rfl, rfl, rfl, rfl⟩

/-! ## The awake step -/

theorem codeAt_of_unwatched {s : State} (h : Unwatched s s.pc (codeWidth s)) : codeAt s = codeIn s.mem s.cpsr.t s.pc := by
  rw [codeAt, asked_mem_of_unwatched h]

theorem chargeRefill_eq (u : State) : chargeRefill u =
    { u with stepCost := u.stepCost + (if u.wrotePc then Config.refillCost u.pc u.cpsr.t else 0), wrotePc := false } := by
  rcases u with ⟨_, _, _, _, _, _, _, _, _, _, _, _, _, _, wrote, _⟩
  cases wrote <;> rfl

/-- Settles O8: the fetch leaves a fetched state, and the row found there is what runs. -/
theorem stepRunsTheDecodedInstruction : Obligations.StepRunsTheDecodedInstruction :=
  ⟨fun s i awake row => ⟨(fetch s).2, fetched_fetch s, by rw [step_awake awake, executeFetched_of_row row]; rfl⟩,
    fun _ => codeAt_of_unwatched, chargeRefill_eq⟩

/-! ## Register 15 -/

theorem alignPc_toNat_arm (v : Word) : (alignPc false v).toNat = v.toNat / 4 * 4 := by
  rw [alignPc_toNat]
  simp
  omega

theorem alignPc_toNat_thumb (v : Word) : (alignPc true v).toNat = v.toNat / 2 * 2 := by
  rw [alignPc_toNat]
  simp
  omega

/-- The states differ in registers, pc, CPSR, step cost, mark and free values at most. -/
structure SameOutside (s t : State) : Prop where
  mem : t.mem = s.mem
  plat : t.plat = s.plat
  lastAccess : t.lastAccess = s.lastAccess
  spsr : ∀ b, t.spsr b = s.spsr b
  halted : t.halted = s.halted
  budget : t.budget = s.budget

namespace SameOutside

theorem refl (s : State) : SameOutside s s := ⟨rfl, rfl, rfl, fun _ => rfl, rfl, rfl⟩

theorem trans {s t u : State} (h : SameOutside s t) (k : SameOutside t u) : SameOutside s u :=
  ⟨k.mem.trans h.mem, k.plat.trans h.plat, k.lastAccess.trans h.lastAccess, fun b => (k.spsr b).trans (h.spsr b),
    k.halted.trans h.halted, k.budget.trans h.budget⟩

theorem untouched {s t : State} (h : SameOutside s t) : Untouched s t :=
  ⟨fun a => congrArg (Memory.read · a) h.mem, h.spsr, h.lastAccess, h.plat, h.halted, h.budget⟩

/-! Each update of registers, pc or CPSR is one more step of this kind. -/

theorem writeReg {s t : State} (h : SameOutside s t) (rd : Reg) (v : Word) : SameOutside s (Machine.writeReg rd v t) :=
  h.trans ⟨by simp, by simp, by simp, by simp, by simp, by simp⟩

theorem writePc {s t : State} (h : SameOutside s t) (v : Word) : SameOutside s (Machine.writePc v t) := h.writeReg 15#4 v

theorem charge {s t : State} (h : SameOutside s t) (k : CostCategory) (mc : Nat := 0) : SameOutside s (t.charge k mc) :=
  h.trans ⟨rfl, rfl, rfl, by simp, rfl, rfl⟩

theorem withCpsr {s t : State} (h : SameOutside s t) (p : Cpsr) (n : Nat) : SameOutside s { t with cpsr := p, draws := n } :=
  h.trans ⟨rfl, rfl, rfl, fun b => by cases b <;> rfl, rfl, rfl⟩

theorem setCpsr {s t : State} (h : SameOutside s t) (p : Cpsr) : SameOutside s (t.setCpsr p) := h.withCpsr p t.draws

end SameOutside

/-- Settles O17: register 15 reads as pc and what its use adds; a write of it is `writePc`. -/
theorem register15 : Obligations.Register15 := by
  refine ⟨fun s cur h => ?_, fun s cur h => ?_, fun s v => ⟨fun ht => ?_, fun ht => ?_, rfl, rfl,
    ((SameOutside.refl s).writePc v).untouched⟩⟩
  · simp [readArm, readArm12, h, BitVec.add_assoc]
  · simp [readThumb, thumbPcBase, h, BitVec.add_assoc]
  · rw [writeReg_pc, writePc_pc, ht, alignPc_toNat_arm]
  · rw [writeReg_pc, writePc_pc, ht, alignPc_toNat_thumb]

/-! ## Effective addresses -/

theorem ofInt_toNat_sub (a b : Word) : BitVec.ofInt 32 (a.toNat - b.toNat : Int) = a - b := by
  rw [Int.sub_eq_add_neg, BitVec.ofInt_add, BitVec.ofInt_neg, BitVec.ofInt_natCast, BitVec.ofInt_natCast,
    BitVec.ofNat_toNat, BitVec.ofNat_toNat, BitVec.setWidth_eq, BitVec.setWidth_eq, BitVec.sub_eq_add_neg]

theorem ofInt_toNat_add (a b : Word) : BitVec.ofInt 32 (a.toNat + b.toNat : Int) = a + b := by
  simp [BitVec.ofInt_add]

theorem offsetAddr_eq (u : Bool) (base x : Word) :
    offsetAddr u base x = BitVec.ofInt 32 (if u then base.toNat + x.toNat else base.toNat - x.toNat) := by
  cases u
  · exact (ofInt_toNat_sub base x).symm
  · exact (ofInt_toNat_add base x).symm

/-- The two halves of an A.HSI offset as a number (R114). -/
theorem hsOffset_eq (hi lo : BitVec 4) : (hi ++ lo).setWidth 32 = BitVec.ofNat 32 (hi.toNat * 16 + lo.toNat) := by
  refine BitVec.eq_of_toNat_eq ?_
  rw [BitVec.toNat_setWidth, BitVec.toNat_append, BitVec.toNat_ofNat, Nat.shiftLeft_eq, ← Nat.shiftLeft_eq,
    ← Nat.shiftLeft_add_eq_or_of_lt lo.isLt, Nat.shiftLeft_eq]

/-- Settles O35: each form is its base, its offset, added or subtracted, and its write-back. -/
theorem transferAddresses : Obligations.TransferAddresses := by
  intro s
  refine ⟨fun f => ?_, fun f => ?_, fun f => ?_, fun f => ?_, fun f => ?_, fun f => ?_⟩
  · simp only [addrSdtImmPre, preIndexed, offsetAddr_eq]
  · simp only [addrSdtImmPost, postIndexed, offsetAddr_eq]
  · simp only [addrSdtRegPre, preIndexed, offsetAddr_eq, shiftedOffset]
  · simp only [addrSdtRegPost, postIndexed, offsetAddr_eq, shiftedOffset]
  · simp only [addrHsReg, hsAddressing, preIndexed, postIndexed, offsetAddr_eq]
  · simp only [addrHsImm, hsAddressing, preIndexed, postIndexed, offsetAddr_eq, hsOffset_eq]

end Sys2Proof.Machine.Claims
end

section
/-! What the words of the statements say of the model's updates: `Registers` of a register write and of states that agree on what it
speaks of, pc and the mark after a register write, and the shapes of the instructions that compute a register or branch. -/

namespace Sys2Proof.Machine.Claims

/-! ## Registers -/

theorem phys_of_regs {s t : State} (h : t.regs = s.regs) (p : PhysReg) : t.phys p = s.phys p := by
  rw [State.phys, State.phys, h]

/-- No register changes. -/
theorem registers_of_regs {s t : State} (h : t.regs = s.regs) : Registers s t (slot s) :=
  ⟨fun _ _ => phys_of_regs h _, fun p _ => phys_of_regs h p⟩

/-- The slots of `t` are spoken of through its registers only, those of `s` through its registers and mode. -/
theorem Registers.congr {s s' t t' : State} {val : Reg → Word} (h : Registers s t val) (hm : s'.cpsr.mode = s.cpsr.mode)
    (hs : s'.regs = s.regs) (ht : t'.regs = t.regs) : Registers s' t' val := by
  obtain ⟨slots, others⟩ := h
  refine ⟨fun r hr => ?_, fun p hp => ?_⟩
  · rw [hm, phys_of_regs ht, slots r hr]
  · rw [phys_of_regs ht, others p (hm ▸ hp), phys_of_regs hs]

/-- A write of slot `rd` after registers that hold `val`. -/
theorem Registers.writeReg {s t : State} {val : Reg → Word} (h : Registers s t val) (hm : t.cpsr.mode = s.cpsr.mode) (rd : Reg)
    (v : Word) : Registers s (Machine.writeReg rd v t) fun r => if r = rd then v else val r := by
  obtain ⟨slots, others⟩ := h
  refine ⟨fun r hr => ?_, fun p hp => ?_⟩
  · show _ = if r = rd then v else val r
    split
    · next e => rw [e, ← hm, phys_writeReg_same (e ▸ hr)]
    · next e =>
      by_cases hd : rd = 15#4
      · rw [hd, writeReg_pc, phys_of_regs (writePc_regs v t), slots r hr]
      · rw [phys_writeReg_ne fun q => e (physReg_inj hr hd (hm ▸ q)), slots r hr]
  · by_cases hd : rd = 15#4
    · rw [hd, writeReg_pc, phys_of_regs (writePc_regs v t), others p hp]
    · rw [phys_writeReg_ne (hm.symm ▸ hp rd hd), others p hp]

theorem registers_writeReg (s : State) (rd : Reg) (v : Word) : Registers s (writeReg rd v s) (written s rd v) :=
  (registers_of_regs rfl).writeReg rfl rd v

theorem writeReg_pc_eq (rd : Reg) (v : Word) (s : State) : (writeReg rd v s).pc = pcWritten s rd v := by
  unfold writeReg pcWritten
  split <;> rfl

theorem writeReg_wrotePc_eq (rd : Reg) (v : Word) (s : State) : (writeReg rd v s).wrotePc = pcMark s (rd = 15#4) :=
  writeReg_wrotePc rd v s

/-! ## Instructions that compute -/

/-- A register is written and the flags are set: the shape of every instruction that computes (R201, R325). -/
theorem computes_some {i : Instr} {s : State} {rd : Reg} {v : Word} {p : Cpsr} {n : Nat} (k : CostCategory) (mc d : Nat)
    (e : exec i s = .next { writeReg rd v (s.charge k mc) with cpsr := p, draws := d }) (hn : icycles k mc = n) :
    Computes i s (some rd) v p n := by
  subst hn
  refine ⟨_, e, ⟨?_, ?_, ?_⟩, rfl, ?_, ?_⟩
  · exact (registers_writeReg (s.charge k mc) rd v).congr rfl rfl rfl
  · exact writeReg_pc_eq rd v (s.charge k mc)
  · exact writeReg_wrotePc_eq rd v (s.charge k mc)
  · exact ((((SameOutside.refl s).charge k mc).writeReg rd v).withCpsr p d).untouched
  · exact writeReg_stepCost rd v (s.charge k mc)

/-- The CPSR alone is set: the shape of a compare. -/
theorem computes_none {i : Instr} {s : State} {v : Word} {p : Cpsr} {n : Nat} (k : CostCategory)
    (e : exec i s = .next ((s.charge k).setCpsr p)) (hn : icycles k 0 = n) : Computes i s none v p n := by
  subst hn
  exact ⟨_, e, ⟨registers_of_regs rfl, rfl, rfl⟩, rfl, (((SameOutside.refl s).charge k).setCpsr p).untouched, rfl⟩

/-- A register is written and the CPSR stays. -/
theorem computes_writeReg {i : Instr} {s : State} {rd : Reg} {v : Word} (k : CostCategory)
    (e : exec i s = .next (writeReg rd v (s.charge k))) : Computes i s (some rd) v s.cpsr (icycles k 0) :=
  computes_some k 0 (writeReg rd v (s.charge k)).draws (by rw [e, ← charge_cpsr k 0 s, ← writeReg_cpsr rd v (s.charge k)]) rfl

/-- pc alone is written: the shape of a branch. -/
theorem branches_writePc {i : Instr} {s : State} {v : Word} (e : exec i s = .next (writePc v (s.charge .branch))) :
    Branches i s (alignPc s.cpsr.t v) :=
  ⟨_, e, rfl, rfl, registers_of_regs rfl, rfl, (((SameOutside.refl s).charge .branch).writePc v).untouched, rfl⟩

end Sys2Proof.Machine.Claims
end

section
/-! ARM data processing (R200 to R225): one equation for a result's destination, one for the flags of each operation; every row is
read off them. -/

namespace Sys2Proof.Machine.Claims

/-! ## The arithmetic operations (R166, R167) -/

/-- The adder's output is an operation's: its result, and the four flags it leaves. -/
def Sum.Is (o : Sum) (p : Cpsr) (a b : Word) (x : AluOut) : Prop := x.r = o.result p a b ∧ p.withResult x = o.flags p a b

/-- N and Z come from the result, so the result, C and V decide. -/
theorem Sum.is_of_iff {o : Sum} {p : Cpsr} {a b : Word} {x : AluOut} (hr : x.r = o.result p a b)
    (hc : x.c = true ↔ (if o.subtracts then (0 : Int) else 2 ^ 32) ≤ o.exact a.toNat b.toNat p.c.toNat)
    (hv : x.v = true ↔ o.exact a.toInt b.toInt p.c.toNat < -2 ^ 31 ∨ 2 ^ 31 ≤ o.exact a.toInt b.toInt p.c.toNat) :
    o.Is p a b x := by
  have c : x.c = (o.flags p a b).c := by
    rw [Bool.eq_iff_iff, hc]
    show _ ↔ (if o.subtracts then _ else _) = true
    split <;> exact decide_eq_true_iff.symm
  have v : x.v = (o.flags p a b).v := by rw [Bool.eq_iff_iff, hv]; exact decide_eq_true_iff.symm
  refine ⟨hr, ?_⟩
  rw [Cpsr.withResult, hr, c, v]
  rfl

theorem plus_is (p : Cpsr) (a b : Word) : plus.Is p a b (addWithCarry a b false) := by
  refine Sum.is_of_iff ?_ ?_ ?_
  · exact (congrArg (BitVec.ofNat 32) (Nat.add_zero _)).trans (BitVec.ofInt_natCast ..).symm
  · rw [addWithCarry_c]
    simp only [plus, Bool.toNat_false, Bool.false_eq_true, if_false]
    omega
  · rw [addWithCarry_v_iff_range]
    simp [plus]

theorem plusC_is (p : Cpsr) (a b : Word) : plusC.Is p a b (addWithCarry a b p.c) := by
  refine Sum.is_of_iff ?_ ?_ ?_
  · exact (BitVec.ofInt_natCast ..).symm
  · rw [addWithCarry_c]
    simp only [plusC, Bool.false_eq_true, if_false]
    omega
  · rw [addWithCarry_v_iff_range]
    rfl

theorem toInt_not (b : Word) : (~~~b).toInt = -b.toInt - 1 := by
  have := b.isLt
  rw [BitVec.toInt_eq_toNat_cond, BitVec.toInt_eq_toNat_cond, BitVec.toNat_not]
  split <;> split <;> omega

theorem ofNat_eq_ofInt {n : Nat} {x : Int} (h : (n : Int) = x + 2 ^ 32) : BitVec.ofNat 32 n = BitVec.ofInt 32 x := by
  refine BitVec.eq_of_toNat_eq ?_
  rw [BitVec.toNat_ofNat, BitVec.toNat_ofInt]
  omega

/-- Subtraction adds the complement (R166): 2^32 more than the difference, so that a carry says "no borrow". -/
theorem minusC_is (p : Cpsr) (a b : Word) : minusC.Is p a b (addWithCarry a (~~~b) p.c) := by
  have hb := b.isLt
  have hn : (~~~b).toNat = 2 ^ 32 - 1 - b.toNat := BitVec.toNat_not
  refine Sum.is_of_iff ?_ ?_ ?_
  · refine ofNat_eq_ofInt ?_
    simp only [minusC]
    omega
  · rw [addWithCarry_c]
    simp only [minusC, if_true]
    omega
  · rw [addWithCarry_v_iff_range, toInt_not]
    simp only [minusC]
    omega

theorem minus_is (p : Cpsr) (a b : Word) : minus.Is p a b (addWithCarry a (~~~b) true) := by
  have hb := b.isLt
  have hn : (~~~b).toNat = 2 ^ 32 - 1 - b.toNat := BitVec.toNat_not
  refine Sum.is_of_iff ?_ ?_ ?_
  · refine ofNat_eq_ofInt ?_
    simp only [minus, Bool.toNat_true]
    omega
  · rw [addWithCarry_c]
    simp only [minus, if_true, Bool.toNat_true]
    omega
  · rw [addWithCarry_v_iff_range, toInt_not]
    simp only [minus, Bool.toNat_true]
    omega

theorem reversed_is (p : Cpsr) (a b : Word) : reversed.Is p a b (addWithCarry b (~~~a) true) := minus_is p b a

theorem reversedC_is (p : Cpsr) (a b : Word) : reversedC.Is p a b (addWithCarry b (~~~a) p.c) := minusC_is p b a

/-! ## The destination (R201, R203) -/

theorem dpWrite_of_ne {sBit : Bool} {rd : Reg} (h : rd ≠ 15#4) (o : AluOut) (s : State) :
    dpWrite sBit rd o s =
      .next ((writeReg rd o.r s).setCpsr (if sBit then (s.cpsr.withResult o) else s.cpsr)) := by
  rw [dpWrite, if_neg h]
  cases sBit
  · rw [← writeReg_cpsr rd o.r s]
    rfl
  · rw [← writeReg_cpsr rd o.r s]
    rfl

/-- Data processing with a destination below 15: the operation's result goes to it, and the flags are set if S. -/
theorem computes_dpWrite {i : Instr} {s : State} {sBit : Bool} {rd : Reg} {o : AluOut} {v : Word} {p : Cpsr} (k : CostCategory)
    (e : exec i s = dpWrite sBit rd o (s.charge k)) (h : rd ≠ 15#4) (hv : o.r = v) (hp : s.cpsr.withResult o = p) :
    Computes i s (some rd) v (if sBit then p else s.cpsr) (icycles k 0) := by
  subst hv hp
  exact computes_some k 0 (writeReg rd o.r (s.charge k)).draws (e.trans (dpWrite_of_ne h o _)) rfl

section
variable {i : Instr} {op : AluOp} {s : State} {v : Word} {p : Cpsr}

theorem computes_dpImm {f : DpImm} (e : exec i s = dpImm op f s) (hc : condPassed f.cond s.cpsr = true) (hd : f.rd ≠ 15#4)
    (hv : (op (readArm f.rn s) (operandImm f s).1 (operandImm f s).2 s.cpsr).r = v)
    (hp : s.cpsr.withResult (op (readArm f.rn s) (operandImm f s).1 (operandImm f s).2 s.cpsr) = p) :
    Computes i s (some f.rd) v (if f.s then p else s.cpsr) 0 :=
  computes_dpWrite .alu (e.trans (guarded_passed _ hc)) hd hv hp

theorem computes_dpReg {f : DpReg} (e : exec i s = dpReg op f s) (hc : condPassed f.cond s.cpsr = true) (hd : f.rd ≠ 15#4)
    (hv : (op (readArm f.rn s) (operandReg f s).1 (operandReg f s).2 s.cpsr).r = v)
    (hp : s.cpsr.withResult (op (readArm f.rn s) (operandReg f s).1 (operandReg f s).2 s.cpsr) = p) :
    Computes i s (some f.rd) v (if f.s then p else s.cpsr) 0 :=
  computes_dpWrite .alu (e.trans (guarded_passed _ hc)) hd hv hp

theorem computes_dpRsr {f : DpRsr} (e : exec i s = dpRsr op f s) (hc : condPassed f.cond s.cpsr = true) (hd : f.rd ≠ 15#4)
    (hv : (op (readArm12 f.rn s) (operandRsr f s).1 (operandRsr f s).2 s.cpsr).r = v)
    (hp : s.cpsr.withResult (op (readArm12 f.rn s) (operandRsr f s).1 (operandRsr f s).2 s.cpsr) = p) :
    Computes i s (some f.rd) v (if f.s then p else s.cpsr) 1 :=
  computes_dpWrite .aluRshift (e.trans (guarded_passed _ hc)) hd hv hp

/-! The compares set the flags their operation leaves. -/

theorem computes_compareImm {f : CmpImm} (e : exec i s = compareImm op f s) (hc : condPassed f.cond s.cpsr = true)
    (hp : s.cpsr.withResult (resultCmpImm f op s) = p) : Computes i s none 0#32 p 0 :=
  computes_none .alu (e.trans ((guarded_passed _ hc).trans (hp ▸ rfl))) rfl

theorem computes_compareReg {f : CmpReg} (e : exec i s = compareReg op f s) (hc : condPassed f.cond s.cpsr = true)
    (hp : s.cpsr.withResult (resultCmpReg f op s) = p) : Computes i s none 0#32 p 0 :=
  computes_none .alu (e.trans ((guarded_passed _ hc).trans (hp ▸ rfl))) rfl

theorem computes_compareRsr {f : CmpRsr} (e : exec i s = compareRsr op f s) (hc : condPassed f.cond s.cpsr = true)
    (hp : s.cpsr.withResult (resultCmpRsr f op s) = p) : Computes i s none 0#32 p 1 :=
  computes_none .aluRshift (e.trans ((guarded_passed _ hc).trans (hp ▸ rfl))) rfl

end

/-! ## The rows -/

/-- What the three forms of a row run. -/
structure Runs (imm : DpImm → Instr) (reg : DpReg → Instr) (rsr : DpRsr → Instr) (op : AluOp) : Prop where
  imm : ∀ f s, exec (imm f) s = dpImm op f s
  reg : ∀ f s, exec (reg f) s = dpReg op f s
  rsr : ∀ f s, exec (rsr f) s = dpRsr op f s

/-- The rows of `sumRows` run the operation their exact value names. -/
theorem runs_of_mem_sumRows {row : SumRow} (h : row ∈ sumRows) :
    ∃ op, Runs row.imm row.reg row.rsr op ∧ ∀ a b c p, row.op.Is p a b (op a b c p) := by
  simp only [sumRows, List.mem_cons, List.not_mem_nil, or_false] at h
  obtain rfl | rfl | rfl | rfl | rfl | rfl := h
  · exact ⟨aluSub, ⟨fun _ _ => rfl, fun _ _ => rfl, fun _ _ => rfl⟩, fun a b _ p => minus_is p a b⟩
  · exact ⟨aluRsb, ⟨fun _ _ => rfl, fun _ _ => rfl, fun _ _ => rfl⟩, fun a b _ p => reversed_is p a b⟩
  · exact ⟨aluAdd, ⟨fun _ _ => rfl, fun _ _ => rfl, fun _ _ => rfl⟩, fun a b _ p => plus_is p a b⟩
  · exact ⟨aluAdc, ⟨fun _ _ => rfl, fun _ _ => rfl, fun _ _ => rfl⟩, fun a b _ p => plusC_is p a b⟩
  · exact ⟨aluSbc, ⟨fun _ _ => rfl, fun _ _ => rfl, fun _ _ => rfl⟩, fun a b _ p => minusC_is p a b⟩
  · exact ⟨aluRsc, ⟨fun _ _ => rfl, fun _ _ => rfl, fun _ _ => rfl⟩, fun a b _ p => reversedC_is p a b⟩

/-- Settles O18: each row runs its operation, whose output is the exact sum's. -/
theorem armArithmetic : Obligations.ArmArithmetic := by
  intro row hrow s
  obtain ⟨op, ⟨imm, reg, rsr⟩, is⟩ := runs_of_mem_sumRows hrow
  exact ⟨fun f hc hd => computes_dpImm (imm f s) hc hd (is _ _ _ _).1 (is _ _ _ _).2,
    fun f hc hd => computes_dpReg (reg f s) hc hd (is _ _ _ _).1 (is _ _ _ _).2,
    fun f hc hd => computes_dpRsr (rsr f s) hc hd (is _ _ _ _).1 (is _ _ _ _).2⟩

/-- The rows of `logicalRows` run the operation they name, with the shifter's carry. -/
theorem runs_of_mem_logicalRows {row : DpRow} (h : row ∈ logicalRows) :
    ∃ op, Runs row.imm row.reg row.rsr op ∧ ∀ a b c p, op a b c p = logical (row.op a b) c p := by
  simp only [logicalRows, List.mem_cons, List.not_mem_nil, or_false] at h
  obtain rfl | rfl | rfl | rfl | rfl | rfl := h
  · exact ⟨aluAnd, ⟨fun _ _ => rfl, fun _ _ => rfl, fun _ _ => rfl⟩, fun _ _ _ _ => rfl⟩
  · exact ⟨aluEor, ⟨fun _ _ => rfl, fun _ _ => rfl, fun _ _ => rfl⟩, fun _ _ _ _ => rfl⟩
  · exact ⟨aluOrr, ⟨fun _ _ => rfl, fun _ _ => rfl, fun _ _ => rfl⟩, fun _ _ _ _ => rfl⟩
  · exact ⟨aluMov, ⟨fun _ _ => rfl, fun _ _ => rfl, fun _ _ => rfl⟩, fun _ _ _ _ => rfl⟩
  · exact ⟨aluBic, ⟨fun _ _ => rfl, fun _ _ => rfl, fun _ _ => rfl⟩, fun _ _ _ _ => rfl⟩
  · exact ⟨aluMvn, ⟨fun _ _ => rfl, fun _ _ => rfl, fun _ _ => rfl⟩, fun _ _ _ _ => rfl⟩

/-- N and Z from the result, the shifter's carry, V as it was. -/
theorem withResult_logical (p : Cpsr) (r : Word) (c : Bool) : p.withResult (logical r c p) = logicalFlags p r c := by
  rw [Cpsr.withResult, logicalFlags, logical, Bool.beq_eq_decide_eq]

/-- Settles O19: each row runs its bitwise operation with the shifter's carry. -/
theorem armLogical : Obligations.ArmLogical := by
  intro row hrow s
  obtain ⟨op, ⟨imm, reg, rsr⟩, is⟩ := runs_of_mem_logicalRows hrow
  have value (a b : Word) (c : Bool) : (op a b c s.cpsr).r = row.op a b := congrArg AluOut.r (is a b c _)
  have flags (a b : Word) (c : Bool) : s.cpsr.withResult (op a b c s.cpsr) = logicalFlags s.cpsr (row.op a b) c := by
    rw [is, withResult_logical]
  exact ⟨fun f hc hd => computes_dpImm (imm f s) hc hd (value _ _ _) (flags _ _ _),
    fun f hc hd => computes_dpReg (reg f s) hc hd (value _ _ _) (flags _ _ _),
    fun f hc hd => computes_dpRsr (rsr f s) hc hd (value _ _ _) (flags _ _ _)⟩

/-- Settles O20: the four compares set the flags of AND, EOR, a difference and a sum. -/
theorem armCompare : Obligations.ArmCompare := by
  intro s
  refine ⟨fun f hc => ?_, fun f hc => ?_, fun f hc => ?_⟩
  · exact ⟨computes_compareImm (op := aluTst) rfl hc (withResult_logical _ _ _),
      computes_compareImm (op := aluTeq) rfl hc (withResult_logical _ _ _),
      computes_compareImm (op := aluCmp) rfl hc (minus_is _ _ _).2, computes_compareImm (op := aluCmn) rfl hc (plus_is _ _ _).2⟩
  · exact ⟨computes_compareReg (op := aluTst) rfl hc (withResult_logical _ _ _),
      computes_compareReg (op := aluTeq) rfl hc (withResult_logical _ _ _),
      computes_compareReg (op := aluCmp) rfl hc (minus_is _ _ _).2, computes_compareReg (op := aluCmn) rfl hc (plus_is _ _ _).2⟩
  · exact ⟨computes_compareRsr (op := aluTst) rfl hc (withResult_logical _ _ _),
      computes_compareRsr (op := aluTeq) rfl hc (withResult_logical _ _ _),
      computes_compareRsr (op := aluCmp) rfl hc (minus_is _ _ _).2, computes_compareRsr (op := aluCmn) rfl hc (plus_is _ _ _).2⟩

end Sys2Proof.Machine.Claims
end

section
/-! Data processing with register 15 as the destination (R203, R517): a branch, or the return from an exception. -/

namespace Sys2Proof.Machine.Claims

/-! ## The exception return (R517) -/

/-- The CPSR a saved status register restores when its mode number names `m`. -/
def restored (p : Spsr) (m : Mode) : Cpsr :=
  { n := p.n, z := p.z, c := p.c, v := p.v, i := p.i, f := p.f, t := p.t, mode := m }

theorem restore_of_mode {p : Spsr} {m : Mode} (h : modeOfBits p.m = some m) : p.restore = some (restored p m) := by
  rw [Spsr.restore, h]
  rfl

theorem restore_of_illegal {p : Spsr} (h : modeOfBits p.m = none) : p.restore = none := by
  rw [Spsr.restore, h]
  rfl

section
variable {s : State} {b : ExcMode} (v : Word)

theorem exceptionReturn_of_none (h : excModeOf s.cpsr.mode = none) : exceptionReturn v s = .next (writePc v s) := by
  rw [exceptionReturn, h]

theorem exceptionReturn_of_restore {p : Cpsr} (h : excModeOf s.cpsr.mode = some b) (hp : (s.spsr b).restore = some p) :
    exceptionReturn v s = .next (writePc v (s.setCpsr p)) := by
  simp only [exceptionReturn, h, hp]

theorem exceptionReturn_of_illegal (h : excModeOf s.cpsr.mode = some b) (hm : modeOfBits (s.spsr b).m = none) :
    exceptionReturn v s = .fault .illegalMode := by
  simp only [exceptionReturn, h, restore_of_illegal hm]

end

/-! ## The rows -/

theorem dpImm_passed {op : AluOp} {f : DpImm} {s : State} (hc : condPassed f.cond s.cpsr = true) :
    dpImm op f s = dpWrite f.s f.rd (resultDpImm f op s) (s.charge .alu) := guarded_passed _ hc

theorem dpReg_passed {op : AluOp} {f : DpReg} {s : State} (hc : condPassed f.cond s.cpsr = true) :
    dpReg op f s = dpWrite f.s f.rd (resultDpReg f op s) (s.charge .alu) := guarded_passed _ hc

/-- A row whose destination is register 15 runs `dpWrite` there. -/
theorem exec_of_pcForm {s : State} {i : Instr} {c : Cond} {sBit : Bool} {r : Word} (h : pcForm s i = some (c, sBit, r))
    (hc : condPassed c s.cpsr = true) :
    ∃ o k, o.r = r ∧ icycles k 0 = dpCycles i ∧ exec i s = dpWrite sBit 15#4 o (s.charge k) := by
  have row {i : Instr} {c' : Cond} {rd : Reg} {sBit' : Bool} {o : State → AluOut} (k : CostCategory)
      (h : (if rd = 15#4 then some (c', sBit', (o s).r) else none) = some (c, sBit, r))
      (e : exec i s = guarded c' (fun s => dpWrite sBit' rd (o s) (s.charge k)) s) (hk : icycles k 0 = dpCycles i) :
      ∃ o k, o.r = r ∧ icycles k 0 = dpCycles i ∧ exec i s = dpWrite sBit 15#4 o (s.charge k) := by
    obtain ⟨rfl, h⟩ := Option.ite_none_right_eq_some.1 h
    cases h
    exact ⟨o s, k, rfl, hk, e.trans (guarded_passed _ hc)⟩
  cases i with
  | andImm f | eorImm f | subImm f | rsbImm f | addImm f | adcImm f | sbcImm f | rscImm f | orrImm f | movImm f | bicImm f
  | mvnImm f => exact row .alu h rfl rfl
  | andReg f | eorReg f | subReg f | rsbReg f | addReg f | adcReg f | sbcReg f | rscReg f | orrReg f | movReg f | bicReg f
  | mvnReg f => exact row .alu h rfl rfl
  | andRsr f | eorRsr f | subRsr f | rsbRsr f | addRsr f | adcRsr f | sbcRsr f | rscRsr f | orrRsr f | movRsr f | bicRsr f
  | mvnRsr f => exact row .aluRshift h rfl rfl
  | _ => exact nomatch h

/-- Settles O21: without S, or where the mode has no SPSR, the result is written to pc; else it is an exception return. -/
theorem dataProcessingToPc : Obligations.DataProcessingToPc := by
  intro s i c sBit r form hc arm
  obtain ⟨o, k, rfl, cost, e⟩ := exec_of_pcForm form hc
  refine ⟨fun plain => ⟨writePc o.r (s.charge k), ?_, ?_, rfl, rfl, registers_of_regs rfl, ?_, ?_⟩, fun b hS hb => ?_⟩
  · rw [e]
    cases sBit
    · rfl
    · exact exceptionReturn_of_none o.r (plain.resolve_left nofun)
  · rw [writePc_pc, charge_cpsr, arm, alignPc_toNat_arm]
  · exact (((SameOutside.refl s).charge k).writePc _).untouched
  · exact congrArg (s.stepCost + ·) cost
  · subst hS
    have saved : (s.charge k).spsr b = s.spsr b := spsr_charge k 0 b s
    refine ⟨fun m hm => ⟨writePc o.r ((s.charge k).setCpsr (restored (s.spsr b) m)), ?_, rfl, ?_, rfl, registers_of_regs rfl, ?_, ?_⟩,
      fun hm => ?_⟩
    · exact e.trans (exceptionReturn_of_restore o.r hb (saved ▸ restore_of_mode hm))
    · rw [writePc_pc, setCpsr_cpsr]
      cases ht : (s.spsr b).t
      · exact (congrArg (fun t => (alignPc t o.r).toNat) ht).trans (alignPc_toNat_arm o.r)
      · exact (congrArg (fun t => (alignPc t o.r).toNat) ht).trans (alignPc_toNat_thumb o.r)
    · exact ((((SameOutside.refl s).charge k).setCpsr _).writePc _).untouched
    · exact congrArg (s.stepCost + ·) cost
    · exact e.trans (exceptionReturn_of_illegal o.r hb (saved ▸ hm))

/-! ## Entry and return (R506) -/

theorem excModeOf_mode (b : ExcMode) : excModeOf b.mode = some b := by cases b <;> rfl

/-- A return from the mode an entry left, with its SPSR as the entry left it, restores the CPSR of the moment of entry. -/
theorem exceptionReturn_undoes_entry {s u : State} {cls : ExcClass} {ret : Word} (v : Word)
    (mode : u.cpsr.mode = (enterException cls ret s).cpsr.mode)
    (saved : ∀ b, b.mode = (enterException cls ret s).cpsr.mode → u.spsr b = (enterException cls ret s).spsr b) :
    exceptionReturn v u = .next (writePc v (u.setCpsr s.cpsr)) := by
  have entered : (enterException cls ret s).cpsr.mode = (excMode cls).mode := by simp [Cpsr.enter]
  refine exceptionReturn_of_restore v (b := excMode cls) ?_ ?_
  · rw [mode, entered, excModeOf_mode]
  · rw [saved _ entered.symm, spsr_enterException, if_pos rfl, restore_save]

theorem slot_link_enterException (cls : ExcClass) (ret : Word) (s : State) :
    slot (enterException cls ret s) 14#4 = ret + lrAdjust cls := by
  rw [slot, phys_enterException, if_pos]
  simp [Cpsr.enter]

/-- Settles O34: the handler's return word is the entry's link less what the entry added to it. -/
theorem returnUndoesEntry : Obligations.ReturnUndoesEntry := by
  intro s u cls i aligned instr e mode link saved
  replace link := link.trans (slot_link_enterException cls s.pc s)
  have returned {o : AluOut} (e : exec i u = dpWrite true 15#4 o (u.charge .alu)) (ho : o.r = s.pc) :
      Ends i u fun t => t.cpsr = s.cpsr ∧ t.pc = s.pc := by
    refine ⟨_, e.trans (exceptionReturn_undoes_entry o.r mode fun b hb => ?_), rfl, ?_⟩
    · exact (spsr_charge .alu 0 b u).trans (saved b hb)
    · rw [writePc_pc, setCpsr_cpsr, ho, aligned]
  obtain ⟨hcls, rfl⟩ | ⟨rfl, rfl⟩ := instr
  · refine returned (dpReg_passed (op := aluMov) (s := u)
      (f := { cond := .al, s := true, rn := 0#4, rd := 15#4, shiftImm := 0#5, type := .lsl, rm := 14#4 }) rfl) ?_
    have : lrAdjust cls = 0#32 := by obtain rfl | rfl := hcls <;> rfl
    rw [this, BitVec.add_zero] at link
    exact link
  · refine returned (dpImm_passed (op := aluSub) (s := u)
      (f := { cond := .al, s := true, rn := 14#4, rd := 15#4, rotate := 0#4, imm8 := 4#8 }) rfl) ?_
    have four (c : Bool) : (immOperand 0#4 4#8 c).1 = 4#32 := show ror ((4#8).setWidth 32) (2 * (0#4).toNat) = 4#32 by decide
    rw [resultDpImm, aluSub, four, addWithCarry_not_true_r, readArm_of_ne (by decide)]
    exact (congrArg (· - 4#32) link).trans (BitVec.add_sub_cancel _ _)

end Sys2Proof.Machine.Claims
end

section
/-! ARM multiplies (R240 to R248): the multiplier count by magnitude, the products and their flags. -/

namespace Sys2Proof.Machine.Claims

/-- What an instruction whose condition passes does. -/
theorem exec_passed {i : Instr} {c : Cond} {body : State → Result} {s : State} (e : ∀ s, exec i s = guarded c body s)
    (hc : condPassed c s.cpsr = true) : exec i s = body s := (e s).trans (guarded_passed body hc)

/-! ## The multiplier count (R248) -/

/-- The bits above the lowest byte, two bytes, three bytes are all zero or all one exactly when the signed value fits there. -/
theorem mcSigned_eq (v : Word) : mcSigned v = signedCount v := by
  have hv := v.isLt
  have one : v.extractLsb' 8 24 = 0#24 ∨ v.extractLsb' 8 24 = BitVec.allOnes 24 ↔ -2 ^ 8 ≤ v.toInt ∧ v.toInt < 2 ^ 8 := by
    rw [← fld, fld_eq_iff, fld_eq_iff, BitVec.toInt_eq_toNat_cond, BitVec.toNat_ofNat, BitVec.toNat_allOnes]
    split <;> omega
  have two : v.extractLsb' 16 16 = 0#16 ∨ v.extractLsb' 16 16 = BitVec.allOnes 16 ↔ -2 ^ 16 ≤ v.toInt ∧ v.toInt < 2 ^ 16 := by
    rw [← fld, fld_eq_iff, fld_eq_iff, BitVec.toInt_eq_toNat_cond, BitVec.toNat_ofNat, BitVec.toNat_allOnes]
    split <;> omega
  have three : v.extractLsb' 24 8 = 0#8 ∨ v.extractLsb' 24 8 = BitVec.allOnes 8 ↔ -2 ^ 24 ≤ v.toInt ∧ v.toInt < 2 ^ 24 := by
    rw [← fld, fld_eq_iff, fld_eq_iff, BitVec.toInt_eq_toNat_cond, BitVec.toNat_ofNat, BitVec.toNat_allOnes]
    split <;> omega
  simp only [mcSigned, signedCount, one, two, three]

theorem mcUnsigned_eq (v : Word) : mcUnsigned v = unsignedCount v := by
  have hv := v.isLt
  have one : v.extractLsb' 8 24 = 0#24 ↔ v.toNat < 2 ^ 8 := by
    rw [← fld, fld_eq_iff, BitVec.toNat_ofNat]
    omega
  have two : v.extractLsb' 16 16 = 0#16 ↔ v.toNat < 2 ^ 16 := by
    rw [← fld, fld_eq_iff, BitVec.toNat_ofNat]
    omega
  have three : v.extractLsb' 24 8 = 0#8 ↔ v.toNat < 2 ^ 24 := by
    rw [← fld, fld_eq_iff, BitVec.toNat_ofNat]
    omega
  simp only [mcUnsigned, unsignedCount, one, two, three]

/-! ## 32-bit products -/

theorem mulWrite_eq (sBit : Bool) (rd : Reg) (r : Word) (s : State) : ∃ c d, mulWrite sBit rd r s =
    { writeReg rd r s with cpsr := if sBit then logicalFlags s.cpsr r c else s.cpsr, draws := d } := by
  rw [← writeReg_cpsr rd r s]
  cases sBit
  · exact ⟨false, (writeReg rd r s).draws, rfl⟩
  · refine ⟨Config.freeBit (writeReg rd r s).draws, (writeReg rd r s).draws + 1, ?_⟩
    rw [if_pos rfl, ← withResult_logical]
    rfl

/-- A 32-bit multiply computes its result; with S, C is some bit (R247). -/
theorem computes_mulWrite {i : Instr} {s : State} {sBit : Bool} {rd : Reg} {r : Word} (k : CostCategory) (mc : Nat)
    (e : exec i s = .next (mulWrite sBit rd r (s.charge k mc))) :
    ∃ c, Computes i s (some rd) r (if sBit then logicalFlags s.cpsr r c else s.cpsr) (icycles k mc) := by
  obtain ⟨c, d, h⟩ := mulWrite_eq sBit rd r (s.charge k mc)
  exact ⟨c, computes_some k mc d (e.trans (congrArg _ h)) rfl⟩

/-- Settles O22: the product modulo 2^32 is the product of the words, and the count is the model's. -/
theorem multiplyResults : Obligations.MultiplyResults := by
  intro f s hc m k done
  have of_computes {i : Instr} {r r' : Word} {n n' : Nat}
      (h : ∃ c, Computes i s (some f.rd) r (if f.s then logicalFlags s.cpsr r c else s.cpsr) n) (hr : r = r') (hn : n = n') :
      done i r' n' := by
    subst hr hn
    obtain ⟨c, t, e, ⟨regs, pc, mark⟩, cpsr, untouched, cost⟩ := h
    exact ⟨t, e, regs, pc, mark, untouched, cost, fun hS => cpsr.trans (if_neg (hS ▸ nofun)),
      fun hS => ⟨c, cpsr.trans (if_pos hS)⟩⟩
  have mul := exec_passed (i := .mul f) (fun _ => rfl) hc
  have mla := exec_passed (i := .mla f) (fun _ => rfl) hc
  refine ⟨of_computes (computes_mulWrite .mul _ mul) rfl (mcSigned_eq _),
    of_computes (computes_mulWrite .mla _ mla) ?_ (congrArg (· + 1) (mcSigned_eq _))⟩
  rw [BitVec.ofNat_add, BitVec.ofNat_toNat, BitVec.setWidth_eq]
  rfl

/-! ## 64-bit products -/

theorem toNat_append (x : BitVec m) (y : BitVec n) : (x ++ y).toNat = x.toNat * 2 ^ n + y.toNat := by
  rw [BitVec.toNat_append, ← Nat.shiftLeft_add_eq_or_of_lt y.isLt, Nat.shiftLeft_eq]

/-- The accumulator is the number its halves make (R243, R245). -/
theorem mullAccumulator_eq (f : MullFields) (s : State) :
    mullAccumulator f s = BitVec.ofNat 64 ((readArm f.rdHi s).toNat * 2 ^ 32 + (readArm f.rdLo s).toNat) := by
  rw [mullAccumulator, ← toNat_append, BitVec.ofNat_toNat, BitVec.setWidth_eq]

theorem withResult64_eq (p : Cpsr) (r : BitVec 64) (c v : Bool) :
    p.withResult64 r c v = { p with n := r.getLsbD 63, z := decide (r = 0#64), c := c, v := v } := by
  rw [Cpsr.withResult64, Bool.beq_eq_decide_eq, BitVec.msb_eq_getLsbD_last]

theorem mullWrite_eq (sBit : Bool) (lo hi : Reg) (r : BitVec 64) (s : State) : ∃ c v d, mullWrite sBit lo hi r s =
    { writeReg hi (r.extractLsb' 32 32) (writeReg lo (r.extractLsb' 0 32) s) with
      cpsr := if sBit then { s.cpsr with n := r.getLsbD 63, z := decide (r = 0#64), c := c, v := v } else s.cpsr, draws := d } := by
  have kept : (writeReg hi (r.extractLsb' 32 32) (writeReg lo (r.extractLsb' 0 32) s)).cpsr = s.cpsr := by
    rw [writeReg_cpsr, writeReg_cpsr]
  rw [← kept]
  cases sBit
  · exact ⟨false, false, (writeReg hi (r.extractLsb' 32 32) (writeReg lo (r.extractLsb' 0 32) s)).draws, rfl⟩
  · let n := (writeReg hi (r.extractLsb' 32 32) (writeReg lo (r.extractLsb' 0 32) s)).draws
    refine ⟨Config.freeBit n, Config.freeBit (n + 1), n + 2, ?_⟩
    rw [if_pos rfl, ← withResult64_eq]
    rfl

/-- What a long multiply leaves (R242 to R245). -/
theorem ends_mullWrite {f : MullFields} {i : Instr} {s : State} {r r' : BitVec 64} {k : CostCategory} {mc n : Nat}
    (e : exec i s = .next (mullWrite f.s f.rdLo f.rdHi r' (s.charge k mc))) (hr : r' = r) (hn : icycles k mc = n) :
    Ends i s fun t =>
      Registers s t (twoWritten s f r) ∧
      t.pc = (if f.rdHi = 15#4 then alignPc s.cpsr.t (r.extractLsb' 32 32) else pcWritten s f.rdLo (r.extractLsb' 0 32)) ∧
      t.wrotePc = pcMark s (f.rdLo = 15#4 ∨ f.rdHi = 15#4) ∧ Untouched s t ∧ t.stepCost = s.stepCost + n ∧
      (f.s = false → t.cpsr = s.cpsr) ∧
      (f.s = true → ∃ c v, t.cpsr = { s.cpsr with n := r.getLsbD 63, z := decide (r = 0#64), c := c, v := v }) := by
  subst hr hn
  obtain ⟨c, v, d, h⟩ := mullWrite_eq f.s f.rdLo f.rdHi r' (s.charge k mc)
  refine ⟨_, e.trans (congrArg _ h), ?_, ?_, ?_, ?_, ?_, fun hS => if_neg (hS ▸ nofun), fun hS => ⟨c, v, if_pos hS⟩⟩
  · exact ((registers_writeReg (s.charge k mc) f.rdLo _).writeReg (by rw [writeReg_cpsr]) f.rdHi _).congr rfl rfl rfl
  · show (writeReg f.rdHi _ (writeReg f.rdLo _ (s.charge k mc))).pc = _
    rw [writeReg_pc_eq, pcWritten, writeReg_cpsr, writeReg_pc_eq]
    rfl
  · show (writeReg f.rdHi _ (writeReg f.rdLo _ (s.charge k mc))).wrotePc = _
    rw [writeReg_wrotePc, writeReg_wrotePc, pcMark, Bool.decide_or, Bool.or_assoc]
    rfl
  · exact (((((SameOutside.refl s).charge k mc).writeReg ..).writeReg ..).withCpsr _ d).untouched
  · show (writeReg f.rdHi _ (writeReg f.rdLo _ (s.charge k mc))).stepCost = _
    rw [writeReg_stepCost, writeReg_stepCost]
    rfl

/-- Settles O23: each 64-bit value is the model's, and the counts are the model's. -/
theorem longMultiplyResults : Obligations.LongMultiplyResults := by
  intro f s hc
  have umull := exec_passed (i := .umull f) (fun _ => rfl) hc
  have umlal := exec_passed (i := .umlal f) (fun _ => rfl) hc
  have smull := exec_passed (i := .smull f) (fun _ => rfl) hc
  have smlal := exec_passed (i := .smlal f) (fun _ => rfl) hc
  refine ⟨ends_mullWrite umull rfl (congrArg (· + 1) (mcUnsigned_eq _)), ends_mullWrite umlal ?_ (congrArg (· + 2) (mcUnsigned_eq _)),
    ends_mullWrite smull rfl (congrArg (· + 1) (mcSigned_eq _)), ends_mullWrite smlal ?_ (congrArg (· + 2) (mcSigned_eq _))⟩
  · rw [mullAccumulator_eq, unsignedProduct, ← BitVec.ofNat_add]
  · rw [mullAccumulator_eq, signedProduct, ← BitVec.ofInt_natCast, ← BitVec.ofInt_add]

end Sys2Proof.Machine.Claims
end

section
/-! MRS and MSR (R305, R306): which bit of a status register is which bit of a word, and which bits MSR merges. -/

namespace Sys2Proof.Machine.Claims

/-! ## MRS -/

/-- The bits of the word of a status register (R30, R35). -/
theorem bits_toWord (p : Spsr) :
    p.toWord.getLsbD 31 = p.n ∧ p.toWord.getLsbD 30 = p.z ∧ p.toWord.getLsbD 29 = p.c ∧ p.toWord.getLsbD 28 = p.v ∧
      (∀ k, 8 ≤ k → k < 28 → p.toWord.getLsbD k = false) ∧ p.toWord.getLsbD 7 = p.i ∧ p.toWord.getLsbD 6 = p.f ∧
      p.toWord.getLsbD 5 = p.t ∧ p.toWord.extractLsb' 0 5 = p.m := by
  have whole := spsrOfWord_toWord p
  refine ⟨congrArg Spsr.n whole, congrArg Spsr.z whole, congrArg Spsr.c whole, congrArg Spsr.v whole, fun k h8 h28 => ?_,
    congrArg Spsr.i whole, congrArg Spsr.f whole, congrArg Spsr.t whole, congrArg Spsr.m whole⟩
  rw [Spsr.getLsbD_toWord]
  simp [show ¬k < 5 by omega, show k ≠ 5 by omega, show k ≠ 6 by omega, show k ≠ 7 by omega, show k ≠ 28 by omega,
    show k ≠ 29 by omega, show k ≠ 30 by omega, show k ≠ 31 by omega]

/-- Where there is a status register to read, MRS reads its word. -/
theorem mrsValue_eq {r : Bool} {s : State} {p : Spsr}
    (h : (if r then (excModeOf s.cpsr.mode).map s.spsr else some s.cpsr.save) = some p) : mrsValue r s = p.toWord := by
  cases r
  · cases h
    rfl
  · obtain ⟨b, hb, rfl⟩ := Option.map_eq_some_iff.1 h
    rw [mrsValue, if_pos rfl, hb]

/-- A free value that is used up is a register write's concern as little as it is anything else's. -/
theorem writeReg_mrsDraw (rd : Reg) (x : Word) (r : Bool) (s : State) :
    ∃ d, writeReg rd x (mrsDraw r s) = { writeReg rd x s with draws := d } := by
  unfold mrsDraw writeReg
  split
  · split <;> exact ⟨_, rfl⟩
  · split <;> exact ⟨_, rfl⟩

/-- Settles O24: the value read goes to `Rd`, and it is the status register's word where there is one. -/
theorem mrsReads : Obligations.MrsReads := by
  intro f s hc
  have e := exec_passed (i := .mrs f) (fun _ => rfl) hc
  obtain ⟨d, h⟩ := writeReg_mrsDraw f.rd (mrsValue f.r s) f.r (s.charge .psr)
  obtain ⟨t, e, ⟨regs, pc, mark⟩, cpsr, untouched, cost⟩ :=
    computes_some .psr 0 d (p := s.cpsr) (e.trans (congrArg _ (h.trans (by
      rw [← charge_cpsr .psr 0 s, ← writeReg_cpsr f.rd _ (s.charge .psr)])))) rfl
  refine ⟨t, e, mrsValue f.r s, regs, pc, mark, cpsr, untouched, cost, fun p hp => ?_⟩
  rw [mrsValue_eq hp]
  exact bits_toWord p

/-! ## MSR -/

/-- A status register merged under a mask that selects its flags together, its control bits but T together, and T. -/
theorem spsrOfWord_mergeBits (p : Spsr) (operand mask : Word) {flags control thumb : Bool}
    (hf : ∀ k, 28 ≤ k → k < 32 → mask.getLsbD k = flags) (hc : ∀ k < 8, k ≠ 5 → mask.getLsbD k = control)
    (ht : mask.getLsbD 5 = thumb) : spsrOfWord (mergeBits p.toWord operand mask) =
      { n := if flags then operand.getLsbD 31 else p.n, z := if flags then operand.getLsbD 30 else p.z,
        c := if flags then operand.getLsbD 29 else p.c, v := if flags then operand.getLsbD 28 else p.v,
        i := if control then operand.getLsbD 7 else p.i, f := if control then operand.getLsbD 6 else p.f,
        t := if thumb then operand.getLsbD 5 else p.t, m := if control then operand.extractLsb' 0 5 else p.m } := by
  obtain ⟨n, z, c, v, -, i, f, t, m⟩ := bits_toWord p
  have low : (mergeBits p.toWord operand mask).extractLsb' 0 5 = if control then operand.extractLsb' 0 5 else p.m := by
    refine BitVec.eq_of_getLsbD_eq fun k hk => ?_
    rw [BitVec.getLsbD_extractLsb', Nat.zero_add, getLsbD_mergeBits, hc k (by omega) (by omega), ← m]
    split <;> simp
  rw [spsrOfWord, low]
  simp only [getLsbD_mergeBits, hf 31 (by decide) (by decide), hf 30 (by decide) (by decide), hf 29 (by decide) (by decide),
    hf 28 (by decide) (by decide), hc 7 (by decide) (by decide), hc 6 (by decide) (by decide), ht, n, z, c, v, i, f, t]

/-- The bits MSR may write in the CPSR: the flags; in a privileged mode I, F and the mode; never T. -/
theorem getLsbD_cpsrWritable (m : Mode) :
    (∀ k, 28 ≤ k → k < 32 → (cpsrWritable m).getLsbD k = true) ∧
      (∀ k < 8, k ≠ 5 → (cpsrWritable m).getLsbD k = (m != .usr)) ∧ (cpsrWritable m).getLsbD 5 = false := by
  refine ⟨fun k h28 h32 => ?_, fun k h8 h5 => ?_, by cases m <;> rfl⟩
  · interval_cases k <;> cases m <;> rfl
  · interval_cases k <;> cases m <;> first | rfl | exact absurd rfl h5

theorem getLsbD_spsrWritable : (∀ k, 28 ≤ k → k < 32 → spsrWritable.getLsbD k = true) ∧
    ∀ k < 8, spsrWritable.getLsbD k = true := by
  refine ⟨fun k h28 h32 => ?_, fun k h8 => ?_⟩
  · interval_cases k <;> rfl
  · interval_cases k <;> rfl

/-- What MSR makes of the CPSR, as a saved status register. -/
theorem spsrOfWord_mergeCpsr (p : Cpsr) (mask : BitVec 4) (operand : Word) :
    let flags := mask.getLsbD 3
    let control := mask.getLsbD 0 && p.mode != .usr
    spsrOfWord (mergeBits p.toWord operand (byteMask mask &&& cpsrWritable p.mode)) =
      { n := if flags then operand.getLsbD 31 else p.n, z := if flags then operand.getLsbD 30 else p.z,
        c := if flags then operand.getLsbD 29 else p.c, v := if flags then operand.getLsbD 28 else p.v,
        i := if control then operand.getLsbD 7 else p.i, f := if control then operand.getLsbD 6 else p.f,
        t := p.t, m := if control then operand.extractLsb' 0 5 else p.mode.bits } := by
  obtain ⟨hf, hc, ht⟩ := getLsbD_cpsrWritable p.mode
  refine spsrOfWord_mergeBits p.save operand _ (thumb := false) (fun k h28 h32 => ?_) (fun k h8 h5 => ?_) ?_
  · rw [BitVec.getLsbD_and, getLsbD_byteMask, hf k h28 h32, show k / 8 = 3 by omega, decide_eq_true h32, Bool.true_and, Bool.and_true]
  · rw [BitVec.getLsbD_and, getLsbD_byteMask, hc k h8 h5, show k / 8 = 0 by omega, decide_eq_true (by omega), Bool.true_and]
  · rw [BitVec.getLsbD_and, ht, Bool.and_false]

/-- What MSR makes of a saved status register. -/
theorem spsrOfWord_mergeSpsr (p : Spsr) (mask : BitVec 4) (operand : Word) :
    let flags := mask.getLsbD 3
    let control := mask.getLsbD 0
    spsrOfWord (mergeBits p.toWord operand (byteMask mask &&& spsrWritable)) =
      { n := if flags then operand.getLsbD 31 else p.n, z := if flags then operand.getLsbD 30 else p.z,
        c := if flags then operand.getLsbD 29 else p.c, v := if flags then operand.getLsbD 28 else p.v,
        i := if control then operand.getLsbD 7 else p.i, f := if control then operand.getLsbD 6 else p.f,
        t := if control then operand.getLsbD 5 else p.t, m := if control then operand.extractLsb' 0 5 else p.m } := by
  obtain ⟨hf, hc⟩ := getLsbD_spsrWritable
  have low {k : Nat} (h8 : k < 8) : (byteMask mask &&& spsrWritable).getLsbD k = mask.getLsbD 0 := by
    rw [BitVec.getLsbD_and, getLsbD_byteMask, hc k h8, show k / 8 = 0 by omega, decide_eq_true (by omega), Bool.true_and, Bool.and_true]
  refine spsrOfWord_mergeBits p operand _ (fun k h28 h32 => ?_) (fun k h8 _ => low h8) (low (by decide))
  rw [BitVec.getLsbD_and, getLsbD_byteMask, hf k h28 h32, show k / 8 = 3 by omega, decide_eq_true h32, Bool.true_and, Bool.and_true]

/-- Both forms of MSR run `msr` on their operand. -/
theorem exec_msr {s : State} {i : Instr} {c : Cond} {mask : BitVec 4} {operand : Word} {r : Bool}
    (h : (∃ f, i = .msrReg f ∧ c = f.cond ∧ f.r = r ∧ mask = f.fieldMask ∧ operand = readArm f.rm s) ∨
      ∃ f, i = .msrImm f ∧ c = f.cond ∧ f.r = r ∧ mask = f.fieldMask ∧ operand = (immOperand f.rotate f.imm8 s.cpsr.c).1)
    (hc : condPassed c s.cpsr = true) : exec i s = msr r mask operand (s.charge .psr) := by
  obtain ⟨f, rfl, rfl, rfl, rfl, rfl⟩ | ⟨f, rfl, rfl, rfl, rfl, rfl⟩ := h
  · have e := exec_passed (i := .msrReg f) (fun _ => rfl) hc
    exact e
  · have e := exec_passed (i := .msrImm f) (fun _ => rfl) hc
    exact e

/-- Settles O25: the merged word's fields are the CPSR's, if its mode number is one. -/
theorem msrCpsr : Obligations.MsrCpsr := by
  intro s i c mask operand instr hc flags control mode
  have e : exec i s = Machine.msrCpsr mask operand (s.charge .psr) := exec_msr instr hc
  rw [Machine.msrCpsr, charge_cpsr, spsrOfWord_mergeCpsr, Spsr.restore] at e
  have number : modeOfBits (if control then operand.extractLsb' 0 5 else s.cpsr.mode.bits) = mode := by
    show _ = if control then _ else _
    split
    · rfl
    · exact modeOfBits_bits _
  refine ⟨fun m hm => ?_, fun hm => ?_⟩
  · rw [show modeOfBits _ = some m from number.trans hm] at e
    exact ⟨_, e, rfl, registers_of_regs rfl, rfl, rfl, (((SameOutside.refl s).charge .psr).setCpsr _).untouched, rfl⟩
  · rw [show modeOfBits _ = none from number.trans hm] at e
    exact e

/-- Settles O26: the SPSR of the current mode takes the merged word. -/
theorem msrSpsr : Obligations.MsrSpsr := by
  intro s i c mask operand instr hc
  have e : exec i s = .next (Machine.msrSpsr mask operand (s.charge .psr)) := exec_msr instr hc
  rw [Machine.msrSpsr, charge_cpsr] at e
  cases hm : excModeOf s.cpsr.mode with
  | none =>
    rw [hm] at e
    refine ⟨_, e, rfl, registers_of_regs rfl, rfl, rfl, fun _ => rfl, rfl, rfl, rfl, rfl, rfl, fun b => ?_⟩
    rw [if_neg nofun, spsr_charge]
  | some own =>
    rw [hm] at e
    refine ⟨_, e, by simp, registers_of_regs (by simp), by simp, by simp, fun _ => by simp, by simp, by simp, by simp, by simp,
      by simp [icycles], fun b => ?_⟩
    by_cases h : own = b
    · subst h
      rw [if_pos rfl, spsr_setSpsr_same, spsr_charge]
      exact spsrOfWord_mergeSpsr _ _ _
    · rw [if_neg fun q => h (Option.some.inj q), spsr_setSpsr_ne (Ne.symm h), spsr_charge]

end Sys2Proof.Machine.Claims
end

section
/-! THUMB register and arithmetic instructions (R325 to R378). -/

namespace Sys2Proof.Machine.Claims

theorem low_eq (r : LowReg) (s : State) : low r s = slot s r.slot := readReg_low _ r s

/-- A result to a low register with its flags. -/
theorem computes_thumbWrite {i : Instr} {s : State} {rd : LowReg} {o : AluOut} {v : Word} {p : Cpsr} (k : CostCategory)
    (e : exec i s = .next (thumbWrite rd o (s.charge k))) (hv : o.r = v) (hp : s.cpsr.withResult o = p) :
    Computes i s (some rd.slot) v p (icycles k 0) := by
  subst hv hp
  refine computes_some k 0 (writeReg rd.slot o.r (s.charge k)).draws (e.trans ?_) rfl
  rw [← charge_cpsr k 0 s, ← writeReg_cpsr rd.slot o.r (s.charge k)]
  rfl

theorem computes_setFlags {i : Instr} {s : State} {o : AluOut} {v : Word} {p : Cpsr} (k : CostCategory)
    (e : exec i s = .next (setFlags o (s.charge k))) (hp : s.cpsr.withResult o = p) : Computes i s none v p (icycles k 0) :=
  computes_none k (hp ▸ e) rfl

/-! ## Additions, subtractions, compares -/

theorem computes_thumbSum {s : State} {i : Instr} {x : Option LowReg × Word × Word × Sum} (h : thumbSum s i = some x) :
    Computes i s (x.1.map LowReg.slot) (x.2.2.2.result s.cpsr x.2.1 x.2.2.1) (x.2.2.2.flags s.cpsr x.2.1 x.2.2.1) 0 := by
  have writes {i : Instr} {rd : LowReg} {op : Sum} {a b : Word} {o : AluOut} (is : op.Is s.cpsr a b o)
      (e : exec i s = .next (thumbWrite rd o (s.charge .alu))) :
      Computes i s (some rd.slot) (op.result s.cpsr a b) (op.flags s.cpsr a b) 0 := computes_thumbWrite .alu e is.1 is.2
  have compares {i : Instr} {op : Sum} {a b : Word} {o : AluOut} (is : op.Is s.cpsr a b o)
      (e : exec i s = .next (setFlags o (s.charge .alu))) :
      Computes i s none (op.result s.cpsr a b) (op.flags s.cpsr a b) 0 := computes_setFlags .alu e is.2
  cases i with
  | tAddReg | tAddImm3 | tAddImm8 =>
    obtain rfl := Option.some.inj h
    exact writes (plus_is _ _ _) (by simp only [← low_eq]; rfl)
  | tSubReg | tSubImm3 | tSubImm8 | tNeg =>
    obtain rfl := Option.some.inj h
    exact writes (minus_is _ _ _) (by simp only [← low_eq]; rfl)
  | tAdc =>
    obtain rfl := Option.some.inj h
    exact writes (plusC_is _ _ _) (by simp only [← low_eq]; rfl)
  | tSbc =>
    obtain rfl := Option.some.inj h
    exact writes (minusC_is _ _ _) (by simp only [← low_eq]; rfl)
  | tCmpImm8 | tCmp =>
    obtain rfl := Option.some.inj h
    exact compares (minus_is _ _ _) (by simp only [← low_eq]; rfl)
  | tCmn =>
    obtain rfl := Option.some.inj h
    exact compares (plus_is _ _ _) (by simp only [← low_eq]; rfl)
  | _ => exact nomatch h

/-- Settles O45: each row is the adder's, with the exact sum's result and flags. -/
theorem thumbArithmetic : Obligations.ThumbArithmetic := fun _ _ _ _ _ _ h => computes_thumbSum h

/-! ## Shifts, moves, bitwise operations -/

theorem computes_thumbLogic {s : State} {i : Instr} {x : Option LowReg × (Word × Bool) × Nat} (h : thumbLogic s i = some x) :
    Computes i s (x.1.map LowReg.slot) x.2.1.1 (logicalFlags s.cpsr x.2.1.1 x.2.1.2) x.2.2 := by
  have writes {i : Instr} {rd : LowReg} {r : Word × Bool} {k : CostCategory}
      (e : exec i s = .next (thumbWrite rd (logical r.1 r.2 s.cpsr) (s.charge k))) :
      Computes i s (some rd.slot) r.1 (logicalFlags s.cpsr r.1 r.2) (icycles k 0) :=
    computes_thumbWrite k e rfl (withResult_logical ..)
  cases i with
  | tLslImm | tLsrImm | tAsrImm | tMovImm8 | tAnd | tEor | tOrr | tBic | tMvn =>
    obtain rfl := Option.some.inj h
    exact writes (k := .alu) (by simp only [← low_eq]; rfl)
  | tLsl | tLsr | tAsr | tRor =>
    obtain rfl := Option.some.inj h
    exact writes (k := .aluRshift) (by simp only [← low_eq]; rfl)
  | tTst =>
    obtain rfl := Option.some.inj h
    exact computes_setFlags .alu (by simp only [← low_eq]; rfl) (withResult_logical ..)
  | _ => exact nomatch h

/-- MUL: the product, C some bit, the cycles by the old `Rd` (R358). -/
theorem computes_tMul (rs rd : LowReg) (s : State) :
    ∃ c, Computes (.tMul rs rd) s (some rd.slot) (low rd s * low rs s) (logicalFlags s.cpsr (low rd s * low rs s) c)
      (signedCount (low rd s)) := by
  refine ⟨Config.freeBit s.draws, computes_some .mul (mcSigned (low rd s)) (s.draws + 1) ?_ (mcSigned_eq _)⟩
  let w := writeReg rd.slot (low rd s * low rs s) (s.charge .mul (mcSigned (low rd s)))
  have kept : w.cpsr = s.cpsr := writeReg_cpsr ..
  show Host.Outcome.next { w with
    cpsr := w.cpsr.withResult (logical (low rd s * low rs s) (Config.freeBit s.draws) s.cpsr), draws := s.draws + 1 } = _
  rw [kept, withResult_logical]

/-- Settles O46: each row is a logical result, and MUL is the product of the words. -/
theorem thumbLogical : Obligations.ThumbLogical := by
  refine ⟨fun _ _ _ _ _ h => computes_thumbLogic h, fun s rs rd => ?_⟩
  rw [← low_eq, ← low_eq]
  exact computes_tMul rs rd s

/-! ## Format 5, formats 12 and 13 -/

theorem ofNat_toNat_add (a b : Word) : BitVec.ofNat 32 (a.toNat + b.toNat) = a + b := by
  rw [BitVec.ofNat_add, BitVec.ofNat_toNat, BitVec.ofNat_toNat, BitVec.setWidth_eq, BitVec.setWidth_eq]

theorem scaled4_eq (x : BitVec n) : scaled4 x = BitVec.ofNat 32 (4 * x.toNat) := by
  refine BitVec.eq_of_toNat_eq ?_
  rw [scaled4, BitVec.toNat_shiftLeft, BitVec.toNat_setWidth, BitVec.toNat_ofNat, Nat.shiftLeft_eq]
  omega

theorem add_scaled4 (a : Word) (x : BitVec n) : a + scaled4 x = BitVec.ofNat 32 (a.toNat + 4 * x.toNat) := by
  rw [scaled4_eq, BitVec.ofNat_add, BitVec.ofNat_toNat, BitVec.setWidth_eq]

theorem sub_scaled4 (a : Word) (x : BitVec n) : a - scaled4 x = BitVec.ofInt 32 (a.toNat - 4 * x.toNat) := by
  have four : BitVec.ofInt 32 (4 * x.toNat) = BitVec.ofNat 32 (4 * x.toNat) := BitVec.ofInt_natCast 32 (4 * x.toNat)
  rw [scaled4_eq, Int.sub_eq_add_neg, BitVec.ofInt_add, BitVec.ofInt_neg, four, BitVec.ofInt_natCast, BitVec.ofNat_toNat,
    BitVec.setWidth_eq, BitVec.sub_eq_add_neg]

theorem readThumb_sp (s : State) : readThumb 13#4 s = slot s 13#4 := readReg_of_ne (by decide) _ s

theorem thumbPcBase_eq (s : State) : thumbPcBase s = (s.pc + 2#32) &&& ~~~2#32 := rfl

/-- Settles O47: each form is a register write with its flags kept, and CMP the difference's flags. -/
theorem thumbHighAndAddress : Obligations.ThumbHighAndAddress := by
  intro s
  refine ⟨fun h1 h2 rs rd => ⟨?_, computes_writeReg .alu rfl, computes_setFlags .alu rfl (minus_is _ _ _).2⟩,
    fun rd word8 => ⟨?_, ?_⟩, fun sword7 => ⟨?_, ?_⟩⟩
  · rw [ofNat_toNat_add]
    exact computes_writeReg .alu rfl
  · rw [← add_scaled4, ← thumbPcBase_eq]
    exact computes_writeReg .alu rfl
  · rw [← add_scaled4, ← readThumb_sp]
    exact computes_writeReg .alu rfl
  · have sum : BitVec.ofInt 32 ((slot s 13#4).toNat + 4 * sword7.toNat) = _ :=
      BitVec.ofInt_natCast 32 ((slot s 13#4).toNat + 4 * sword7.toNat)
    rw [sum, ← add_scaled4, ← readThumb_sp]
    exact computes_writeReg .alu rfl
  · rw [← sub_scaled4, ← readThumb_sp]
    exact computes_writeReg .alu rfl

end Sys2Proof.Machine.Claims
end

section
/-! Branches of both states (R300 to R302, R368, R430 to R437), the rows that raise an exception (R310 to R317, R435, R438) and the
poll (R507, R508). -/

namespace Sys2Proof.Machine.Claims

/-! ## Targets -/

/-- A sign-extended offset, scaled (R126, R127). -/
theorem signExtend_shiftLeft (x : BitVec n) (k : Nat) : x.signExtend 32 <<< k = BitVec.ofInt 32 (2 ^ k * x.toInt) := by
  have power : BitVec.ofInt 32 (2 ^ k) = BitVec.twoPow 32 k := by
    refine (congrArg (BitVec.ofInt 32) (Nat.cast_pow 2 k).symm).trans ((BitVec.ofInt_natCast 32 (2 ^ k)).trans ?_)
    exact BitVec.eq_of_toNat_eq (by rw [BitVec.toNat_ofNat, BitVec.toNat_twoPow])
  rw [BitVec.shiftLeft_eq_mul_twoPow, BitVec.ofInt_mul, power, BitVec.mul_comm]
  rfl

theorem scaled2_eq (x : BitVec n) : scaled2 x = BitVec.ofNat 32 (2 * x.toNat) := by
  refine BitVec.eq_of_toNat_eq ?_
  rw [scaled2, BitVec.toNat_shiftLeft, BitVec.toNat_setWidth, BitVec.toNat_ofNat, Nat.shiftLeft_eq]
  omega

/-- An offset added to an address. -/
theorem add_offset (a : Word) (x : Int) : a + BitVec.ofInt 32 x = BitVec.ofInt 32 (a.toNat + x) := by
  rw [BitVec.ofInt_add, BitVec.ofInt_natCast, BitVec.ofNat_toNat, BitVec.setWidth_eq]

/-- An offset added to an address that is a constant past another. -/
theorem add_const_offset (cur k : Word) (x : Int) :
    cur + k + BitVec.ofInt 32 x = BitVec.ofInt 32 (cur.toNat + k.toNat + x) := by
  rw [add_offset, BitVec.ofInt_add, BitVec.ofInt_add, ofInt_toNat_add, BitVec.ofInt_natCast, BitVec.ofNat_toNat, BitVec.setWidth_eq]

theorem toNat_ofInt_mod_four {x : Int} (h : x % 4 = 0) : (BitVec.ofInt 32 x).toNat % 4 = 0 := by
  rw [BitVec.toNat_ofInt]
  omega

theorem toNat_ofInt_mod_two {x : Int} (h : x % 2 = 0) : (BitVec.ofInt 32 x).toNat % 2 = 0 := by
  rw [BitVec.toNat_ofInt]
  omega

/-! ## ARM branches -/

theorem branchTarget_eq {f : BranchFields} {s : State} {cur : Word} (h : s.pc = cur + 4#32) :
    branchTarget f s = BitVec.ofInt 32 (cur.toNat + 8 + 4 * f.offset24.toInt) := by
  have offset : armBranchOffset f.offset24 = BitVec.ofInt 32 (4 * f.offset24.toInt) := signExtend_shiftLeft f.offset24 2
  rw [branchTarget, readArm, readReg_pc, h, offset, BitVec.add_assoc cur]
  exact add_const_offset cur 8#32 _

/-- Settles O27: the target is a multiple of 4, so aligning it changes nothing. -/
theorem armBranches : Obligations.ArmBranches := by
  intro f s cur hpc arm haligned hc target
  have whole : target.toNat % 4 = 0 := toNat_ofInt_mod_four (by omega)
  have aligned : alignPc s.cpsr.t (branchTarget f s) = target := by
    rw [branchTarget_eq hpc, arm]
    exact (alignPc_eq_self false target).2 whole
  have b := exec_passed (i := .b f) (fun _ => rfl) hc
  have bl := exec_passed (i := .bl f) (fun _ => rfl) hc
  refine ⟨aligned ▸ branches_writePc b, whole, ?_⟩
  let w := writeReg 14#4 s.pc (s.charge .branch)
  refine ⟨writePc (branchTarget f s) w, bl, ?_, rfl, ?_, ?_, ?_, ?_⟩
  · rw [writePc_pc, writeReg_cpsr]
    exact aligned
  · rw [← hpc]
    exact (registers_writeReg (s.charge .branch) 14#4 s.pc).congr rfl rfl rfl
  · rw [writePc_cpsr, writeReg_cpsr]
    rfl
  · exact ((((SameOutside.refl s).charge .branch).writeReg ..).writePc _).untouched
  · rw [writePc_stepCost, writeReg_stepCost]
    rfl

/-- Settles O28: both rows are `branchExchange` of the register's value. -/
theorem branchExchange : Obligations.BranchExchange := by
  intro s i v instr
  have e : exec i s = .next (Machine.branchExchange v (s.charge .branch)) := by
    obtain ⟨f, rfl, hc, rfl⟩ | ⟨h, r, z, rfl, rfl⟩ := instr
    · have bx := exec_passed (i := .bx f) (fun _ => rfl) hc
      exact bx
    · rfl
  exact ⟨_, e, rfl, rfl, rfl, registers_of_regs rfl,
    ((((SameOutside.refl s).charge .branch).setCpsr _).writePc _).untouched, rfl⟩

/-! ## THUMB branches -/

/-- The conditional branches run `condBranch`. -/
theorem exec_of_thumbBranch {i : Instr} {x : Cond × BitVec 8} (h : thumbBranch i = some x) (s : State) :
    exec i s = .next (condBranch x.1 x.2 s) := by
  cases i with
  | tBeq | tBne | tBcs | tBcc | tBmi | tBpl | tBvs | tBvc | tBhi | tBls | tBge | tBlt | tBgt | tBle =>
    obtain rfl := Option.some.inj h
    rfl
  | _ => exact nomatch h

section
variable {s : State} {cur : Word} (hpc : s.pc = cur + 2#32)
include hpc

/-- The target of a THUMB branch: `cur + 4` and the scaled signed offset (R127, R430, R431, R436). -/
theorem thumbTarget_eq (x : BitVec n) (k : Nat) :
    readThumb 15#4 s + x.signExtend 32 <<< k = BitVec.ofInt 32 (cur.toNat + 4 + 2 ^ k * x.toInt) := by
  rw [readThumb, readReg_pc, hpc, BitVec.add_assoc cur, signExtend_shiftLeft]
  exact add_const_offset cur 4#32 _

/-- A branch to an even target. -/
theorem branches_thumbTarget {i : Instr} (thumb : s.cpsr.t = true) (even : cur.toNat % 2 = 0) (x : BitVec n)
    (e : exec i s = .next (writePc (readThumb 15#4 s + x.signExtend 32 <<< 1) (s.charge .branch))) :
    Branches i s (BitVec.ofInt 32 (cur.toNat + 4 + 2 * x.toInt)) := by
  have target := thumbTarget_eq hpc x 1
  rw [pow_one] at target
  rw [target] at e
  have aligned := (alignPc_eq_self true (BitVec.ofInt 32 (cur.toNat + 4 + 2 * x.toInt))).2 (toNat_ofInt_mod_two (by omega))
  exact aligned ▸ thumb ▸ branches_writePc e

end

/-- Settles O29: the targets are even, so aligning changes nothing but in the second half of BL. -/
theorem thumbBranches : Obligations.ThumbBranches := by
  intro s cur hpc thumb even
  refine ⟨fun i c o row => ⟨fun passed => ?_, fun failed => ?_⟩, fun o => ⟨?_, ?_, ?_⟩⟩
  · refine branches_thumbTarget hpc thumb even o ((exec_of_thumbBranch row s).trans ?_)
    rw [condBranch, if_pos passed]
    rfl
  · rw [exec_of_thumbBranch row s, condBranch, failed]
    rfl
  · exact branches_thumbTarget hpc thumb even o rfl
  · rw [← thumbTarget_eq hpc o 12]
    exact computes_writeReg .blPrefix rfl
  · have offset : slot s 14#4 + BitVec.ofNat 32 (2 * o.toNat) = readThumb 14#4 s + blLowOffset o := by
      rw [← scaled2_eq, show readThumb 14#4 s = slot s 14#4 from readReg_of_ne (by decide) _ s]
      rfl
    let w := writePc (readThumb 14#4 s + blLowOffset o) (s.charge .branch)
    refine ⟨writeReg 14#4 (s.pc ||| 1#32) w, rfl, ?_, ?_, ?_, ?_, ?_, ?_⟩
    · rw [offset, writeReg_pc_eq]
      exact congrArg (alignPc · _) thumb
    · rw [writeReg_wrotePc]
      rfl
    · rw [← hpc]
      exact ((registers_of_regs (s := s) (t := w) rfl).writeReg rfl 14#4 _)
    · rw [writeReg_cpsr]
      rfl
    · exact ((((SameOutside.refl s).charge .branch).writePc _).writeReg ..).untouched
    · rw [writeReg_stepCost]
      rfl

/-! ## Rows that raise an exception -/

/-- The rows that raise run one entry, to the class their row names, under their condition. -/
theorem exec_of_raised {i : Instr} {x : Cond × ExcClass} (h : raised i = some x) :
    (x.2 = .swi ∨ x.2 = .undefined) ∧
      ∀ s, exec i s = guarded x.1 (fun s => .next (enterException x.2 s.pc (s.charge .trap))) s := by
  cases i with
  | swi | tSwi =>
    obtain rfl := Option.some.inj h
    exact ⟨.inl rfl, fun _ => rfl⟩
  | und | stc | ldc | cdp | mcr | mrc | tUnd =>
    obtain rfl := Option.some.inj h
    exact ⟨.inr rfl, fun _ => rfl⟩
  | _ => exact nomatch h

/-- What the entry of a row that raises leaves: that of the state without the row's internal cycles, of which there are none. -/
theorem exec_raised {i : Instr} {c : Cond} {cls : ExcClass} {s : State} (h : raised i = some (c, cls))
    (hc : condPassed c s.cpsr = true) : exec i s = .next (enterException cls s.pc s) := exec_passed (exec_of_raised h).2 hc

/-- Settles O31: the row's entry is `enterException` with the next instruction's address. -/
theorem exceptionInstructions : Obligations.ExceptionInstructions := by
  intro s i c cls row
  refine ⟨fun passed => ⟨_, exec_raised row passed, ?_, ?_, ?_, ?_, ?_⟩, fun failed => ?_⟩
  · rintro rfl
    exact enters_enterException .swi s.pc s
  · rintro rfl
    exact enters_enterException .undefined s.pc s
  · simp
  · simp
  · simp
  · exact ((exec_of_raised row).2 s).trans (guarded_failed _ failed)

/-! ## The poll -/

/-- Settles O32: the three cases of the poll. -/
theorem interruptPoll : Obligations.InterruptPoll := by
  refine fun s => ⟨boundaryCheck_of_quiet, fun active => ⟨boundaryCheck_of_masked active, fun unmasked => ?_⟩⟩
  rw [boundaryCheck_of_unmasked active unmasked]
  refine ⟨enters_enterException .irq s.pc { s with halted := false }, ?_, ?_, ?_⟩
  · simp
  · simp
  · simp
    rfl

/-- With interrupts masked the poll leaves the core as it is, but may wake it. -/
theorem boundaryCheck_masked {s : State} (masked : s.cpsr.i = true) :
    (boundaryCheck s).cpsr = s.cpsr ∧ (boundaryCheck s).pc = s.pc ∧ (boundaryCheck s).regs = s.regs ∧
      SavedKept s (boundaryCheck s) := by
  obtain ⟨_, e⟩ | ⟨_, _, e⟩ | ⟨_, unmasked, _⟩ := boundaryCheck_cases s
  · rw [e]
    exact ⟨rfl, rfl, rfl, fun _ => rfl⟩
  · rw [e]
    exact ⟨rfl, rfl, rfl, fun b => by cases b <;> rfl⟩
  · exact absurd (masked.symm.trans unmasked) nofun

theorem spsr_chargeRefill (s : State) (b : ExcMode) : (chargeRefill s).spsr b = s.spsr b := by
  cases b <;> simp [State.spsr]

/-- Settles O33: an entry masks interrupts, so the poll after it takes none. -/
theorem raisedBeforeInterrupt : Obligations.RaisedBeforeInterrupt := by
  intro s t i c cls row passed e
  obtain rfl := Host.Outcome.next.inj ((exec_raised row passed).symm.trans e)
  let t := enterException cls s.pc s
  have masked : (chargeRefill t).cpsr.i = true := by simp [t, Cpsr.enter]
  obtain ⟨cpsr, pc, regs, saved⟩ := boundaryCheck_masked masked
  refine ⟨cpsr.trans (chargeRefill_cpsr t), pc.trans (chargeRefill_pc t), regs.trans (chargeRefill_regs t),
    fun b => (saved b).trans (spsr_chargeRefill t b), ?_⟩
  rw [cpsr, chargeRefill_cpsr]
  obtain rfl | rfl : cls = .swi ∨ cls = .undefined := (exec_of_raised row).1
  · exact .inl rfl
  · exact .inr rfl

end Sys2Proof.Machine.Claims
end

section
/-! Stores through the write masks (R63, R74, R83), and the single loads, stores and swaps of both states (R260 to R275, R290, R291,
R385 to R406): one access, a write-back, a register. -/

namespace Sys2Proof.Machine.Claims

/-! ## One store -/

theorem stored_memWrite (s : State) (a : Word) (w : Width) (v : Word) : Stored s (memWrite a w v s) a w v :=
  ⟨⟨rfl, rfl, rfl⟩, memWrite_lastAccess a w v s, fun unwatched wf _ hc => memWrite_read a w v s unwatched wf hc,
    fun _ outside unwatched => memWrite_read_ne a w v s outside unwatched⟩

theorem haltAsked_of_unwatched {s : State} {a : Word} {w : Width} (v : Word) (h : Unwatched s a w) :
    haltAsked s a w v = platformAsks s a w v := by
  rw [haltAsked, haltAnswer_of_unwatched a w v (s.stored a w v) h]
  rfl

/-- Settles O55: the rest of the state is as `memWrite_rest` says. -/
theorem storesThroughMasks : Obligations.StoresThroughMasks := by
  intro s a w v
  obtain ⟨regs, pc, cpsr, saved, budget, -, -, -, cost, -, -, -⟩ := memWrite_rest a w v s
  exact ⟨stored_memWrite s a w v, memWrite_wf a w v s, memWrite_halted a w v s, haltAsked_of_unwatched v, regs, pc, cpsr, saved,
    budget, cost, getLsbD_maskedByte⟩

/-! ## States that an access is seen through -/

theorem Stored.of_same {s u t : State} {a : Word} {w : Width} {v : Word} (h : Stored s u a w v) (k : SameOutside u t) :
    Stored s t a w v := by
  rw [Stored, Behind, k.mem, k.plat, k.lastAccess]
  exact h

theorem OneRead.of_same {s u t : State} {a : Word} {w : Width} (h : OneRead s u a w) (k : SameOutside u t) : OneRead s t a w := by
  rw [OneRead, Behind, MemoryKept, k.mem, k.plat, k.lastAccess]
  exact h

/-! ## The write-back -/

theorem writeBack_eq (m : Addressing) (rn : Reg) (s : State) : m.writeBack rn s = blockWriteBack m.writeback rn m.offAddr s := rfl

section
variable (w : Bool) (rn : Reg) (wb : Word)

theorem Registers.writeBack {s t : State} {val : Reg → Word} (h : Registers s t val) (hm : t.cpsr.mode = s.cpsr.mode) :
    Registers s (blockWriteBack w rn wb t) fun r => if w = true ∧ r = rn then wb else val r := by
  cases w
  · simpa [blockWriteBack] using h
  · simpa [blockWriteBack] using h.writeReg hm rn wb

theorem SameOutside.writeBack {s t : State} (h : SameOutside s t) : SameOutside s (blockWriteBack w rn wb t) := by
  cases w
  · exact h
  · exact h.writeReg rn wb

@[simp] theorem blockWriteBack_cpsr (s : State) : (blockWriteBack w rn wb s).cpsr = s.cpsr := by
  cases w
  · rfl
  · exact writeReg_cpsr rn wb s

@[simp] theorem blockWriteBack_stepCost (s : State) : (blockWriteBack w rn wb s).stepCost = s.stepCost := by
  cases w
  · rfl
  · exact writeReg_stepCost rn wb s

theorem blockWriteBack_pc (s : State) :
    (blockWriteBack w rn wb s).pc = if w = true ∧ rn = 15#4 then alignPc s.cpsr.t wb else s.pc := by
  cases w
  · simp [blockWriteBack]
  · simpa [blockWriteBack, pcWritten] using writeReg_pc_eq rn wb s

end

/-! ## A single load -/

/-- What a single load leaves: the value in `rd`, which wins over the written-back base (R265). -/
theorem ends_singleLoad {i : Instr} {s : State} {k : LoadKind} {m : Addressing} {rn rd : Reg}
    (e : exec i s = .next (singleLoad k m rn rd s)) :
    let v := loaded s k m.ea
    let a := loadAccess k m.ea
    Ends i s fun t =>
      Registers s t (fun r => if r = rd then v else if m.writeback = true ∧ r = rn then m.offAddr else slot s r) ∧
      t.pc = (if rd = 15#4 then alignPc s.cpsr.t v
        else if m.writeback = true ∧ rn = 15#4 then alignPc s.cpsr.t m.offAddr else s.pc) ∧
      t.wrotePc = pcMark s (rd = 15#4 ∨ m.writeback = true ∧ rn = 15#4) ∧
      t.cpsr = s.cpsr ∧ SavedKept s t ∧ OneRead s t a.addr a.width ∧ t.halted = s.halted ∧ t.budget = s.budget ∧
      t.stepCost = s.stepCost + accessCycles s (readRequest a.addr a.width) + 1 := by
  intro v a
  let u := asked s a.addr a.width
  let b := blockWriteBack m.writeback rn m.offAddr u
  have seen : Seen s u := Seen.memRead a.addr a.width s
  have mode : b.cpsr = s.cpsr := blockWriteBack_cpsr ..
  have same : SameOutside u ((writeReg rd v b).charge .load) := (((SameOutside.refl u).writeBack ..).writeReg rd v).charge .load
  refine ⟨(writeReg rd v b).charge .load, e.trans ?_, ?_, ?_, ?_, ?_, ?_, ?_, ?_, ?_, ?_⟩
  · rw [singleLoad, loadAt_fst, loadAt_snd, writeBack_eq]
  · exact ((registers_of_regs seen.regs).writeBack m.writeback rn m.offAddr rfl).writeReg (congrArg Cpsr.mode mode) rd v
  · rw [charge_pc, writeReg_pc_eq, pcWritten, mode, blockWriteBack_pc]
    rfl
  · rw [charge_wrotePc, writeReg_wrotePc, blockWriteBack_wrotePc, seen.wrotePc, pcMark, Bool.or_assoc, Bool.or_comm (decide _),
      Bool.decide_or]
  · rw [charge_cpsr, writeReg_cpsr, mode]
  · exact fun x => (same.spsr x).trans (seen.spsr x)
  · exact (oneRead_asked s a.addr a.width).of_same same
  · exact same.halted.trans seen.halted
  · exact same.budget.trans seen.budget
  · rw [charge_stepCost, writeReg_stepCost, blockWriteBack_stepCost]
    rfl

/-- The ARM load rows run `singleLoad` with their address. -/
theorem exec_of_armLoad {i : Instr} {x : LoadKind × Form} (h : armLoad i = some x) (s : State) :
    exec i s = guarded x.2.cond (fun s => .next (singleLoad x.1 (x.2.addr s) x.2.rn x.2.rd s)) s := by
  cases i with
  | ldrImmPre | ldrImmPost | ldrtImm | ldrbImmPre | ldrbImmPost | ldrbtImm | ldrRegPre | ldrRegPost | ldrtReg | ldrbRegPre
  | ldrbRegPost | ldrbtReg | ldrhReg | ldrhImm | ldrsbReg | ldrsbImm | ldrshReg | ldrshImm =>
    obtain rfl := Option.some.inj h
    rfl
  | _ => exact nomatch h

/-- Settles O37: every row is a single load. -/
theorem armLoads : Obligations.ArmLoads := fun _ _ _ _ row passed => ends_singleLoad (exec_passed (exec_of_armLoad row) passed)

/-! ## A single store -/

/-- What a single store of `v` leaves. -/
theorem ends_singleStore {i : Instr} {s : State} {w : Width} {m : Addressing} {rn : Reg} {v : Word}
    (e : exec i s = .next (singleStore w m rn v s)) :
    Ends i s fun t =>
      Stored s t (storeAddr w m.ea) w v ∧
      Registers s t (fun r => if m.writeback = true ∧ r = rn then m.offAddr else slot s r) ∧
      t.pc = (if m.writeback = true ∧ rn = 15#4 then alignPc s.cpsr.t m.offAddr else s.pc) ∧
      t.wrotePc = pcMark s (m.writeback = true ∧ rn = 15#4) ∧
      t.cpsr = s.cpsr ∧ SavedKept s t ∧ t.halted = (s.halted || haltAsked s (storeAddr w m.ea) w v) ∧ t.budget = s.budget ∧
      t.stepCost = s.stepCost + accessCycles s (writeRequest (storeAddr w m.ea) w v) := by
  let u := memWrite (storeAddr w m.ea) w v s
  obtain ⟨regs, pc, cpsr, saved, budget, mark, -, -, cost, -, -, -⟩ := memWrite_rest (storeAddr w m.ea) w v s
  have same : SameOutside u ((m.writeBack rn u).charge .store) := ((SameOutside.refl u).writeBack ..).charge .store
  refine ⟨(m.writeBack rn u).charge .store, e, (stored_memWrite ..).of_same same, ?_, ?_, ?_, ?_, ?_, ?_, ?_, ?_⟩
  · exact (registers_of_regs regs).writeBack m.writeback rn m.offAddr (congrArg Cpsr.mode cpsr)
  · rw [charge_pc, writeBack_eq, blockWriteBack_pc, cpsr, pc]
  · rw [charge_wrotePc, writeBack_eq, blockWriteBack_wrotePc, mark]
    rfl
  · rw [charge_cpsr, writeBack_eq, blockWriteBack_cpsr, cpsr]
  · exact fun x => (same.spsr x).trans (saved x)
  · exact same.halted.trans (memWrite_halted ..)
  · exact same.budget.trans budget
  · rw [charge_stepCost, writeBack_eq, blockWriteBack_stepCost, cost]
    rfl

/-- The ARM store rows run `singleStore` with their address, of `Rd` read as a store reads it. -/
theorem exec_of_armStore {i : Instr} {x : Width × Form} (h : armStore i = some x) (s : State) :
    exec i s = guarded x.2.cond (fun s => .next (singleStore x.1 (x.2.addr s) x.2.rn (readArm12 x.2.rd s) s)) s := by
  cases i with
  | strImmPre | strImmPost | strtImm | strbImmPre | strbImmPost | strbtImm | strRegPre | strRegPost | strtReg | strbRegPre
  | strbRegPost | strbtReg | strhReg | strhImm =>
    obtain rfl := Option.some.inj h
    rfl
  | _ => exact nomatch h

/-- Settles O38: every row is a single store; `cur + 12` is 8 past pc as it stands. -/
theorem armStores : Obligations.ArmStores := fun _ _ _ _ row passed => ends_singleStore (exec_passed (exec_of_armStore row) passed)

/-! ## Swaps -/

/-- Settles O39: a load, a store of the old `Rm` at the same address, the register. -/
theorem swaps : Obligations.Swaps := by
  intro f s hc ea done
  have of_swap {i : Instr} {k : LoadKind} {w : Width} (access : loadAccess k ea = ⟨storeAddr w ea, w⟩)
      (e : exec i s = .next (swap k w ea (readArm f.rm s) f.rd s)) : done i k w := by
    let v := loaded s k ea
    let a := storeAddr w ea
    let x := readArm f.rm s
    let u := asked s a w
    have load : loadAt k ea s = (v, u) := Prod.ext (loadAt_fst k ea s) (by rw [loadAt_snd, access])
    have seen : Seen s u := Seen.memRead a w s
    obtain ⟨regs, pc, cpsr, saved, budget, mark, -, -, cost, -, -, -⟩ := memWrite_rest a w x u
    have same : SameOutside (memWrite a w x u) ((writeReg f.rd v (memWrite a w x u)).charge .swap) :=
      ((SameOutside.refl _).writeReg ..).charge .swap
    refine ⟨oneRead_asked s a w, (writeReg f.rd v (memWrite a w x u)).charge .swap, ?_, (stored_memWrite ..).of_same same, ?_, ?_, ?_,
      ?_, ?_, ?_, ?_, ?_⟩
    · rw [e, swap, load]
      rfl
    · exact (registers_of_regs (regs.trans seen.regs)).writeReg (congrArg Cpsr.mode (cpsr.trans seen.cpsr)) f.rd v
    · rw [charge_pc, writeReg_pc_eq, pcWritten, cpsr, pc]
      rfl
    · rw [charge_wrotePc, writeReg_wrotePc, mark]
      rfl
    · rw [charge_cpsr, writeReg_cpsr, cpsr, seen.cpsr]
    · exact fun b => (same.spsr b).trans ((saved b).trans (seen.spsr b))
    · exact same.halted.trans ((memWrite_halted ..).trans (congrArg (· || _) seen.halted))
    · exact same.budget.trans (budget.trans seen.budget)
    · rw [charge_stepCost, writeReg_stepCost, cost]
      rfl
  have swp := exec_passed (i := .swp f) (fun _ => rfl) hc
  have swpb := exec_passed (i := .swpb f) (fun _ => rfl) hc
  exact ⟨of_swap rfl swp, of_swap rfl swpb⟩

/-! ## THUMB loads and stores -/

theorem setWidth_mul_four (x : BitVec n) : x.setWidth 32 * 4#32 = scaled4 x := (BitVec.shiftLeft_eq_mul_twoPow _ 2).symm

theorem setWidth_mul_two (x : BitVec n) : x.setWidth 32 * 2#32 = scaled2 x := (BitVec.shiftLeft_eq_mul_twoPow _ 1).symm

/-- The THUMB load rows run `thumbLoad` at their address. -/
theorem exec_of_thumbLoadForm {s : State} {i : Instr} {x : LoadKind × Word × LowReg} (h : thumbLoadForm s i = some x) :
    exec i s = .next (thumbLoad x.1 x.2.1 x.2.2 s) := by
  cases i with
  | tLdrPc | tLdrReg | tLdrbReg | tLdsbReg | tLdrhReg | tLdshReg | tLdrImm | tLdrbImm | tLdrhImm | tLdrSp =>
    obtain rfl := Option.some.inj h
    simp only [← low_eq, ← readThumb_sp, setWidth_mul_four, setWidth_mul_two]
    rfl
  | _ => exact nomatch h

/-- The THUMB store rows run `thumbStore` at their address. -/
theorem exec_of_thumbStoreForm {s : State} {i : Instr} {x : Width × Word × LowReg} (h : thumbStoreForm s i = some x) :
    exec i s = .next (thumbStore x.1 x.2.1 x.2.2 s) := by
  cases i with
  | tStrReg | tStrbReg | tStrhReg | tStrImm | tStrbImm | tStrhImm | tStrSp =>
    obtain rfl := Option.some.inj h
    rfl
  | _ => exact nomatch h

/-- Settles O48: the rows are single transfers without a write-back, of a register that is not 15. -/
theorem thumbTransfers : Obligations.ThumbTransfers := by
  refine ⟨fun s i k ea rd row => ?_, fun s i w ea rd row => ?_⟩
  · have e : exec i s = .next (singleLoad k ⟨ea, ea, false⟩ 0#4 rd.slot s) := exec_of_thumbLoadForm row
    obtain ⟨t, e, regs, pc, mark, rest⟩ := ends_singleLoad e
    have low := LowReg.slot_ne_pc rd
    refine ⟨t, e, ?_, ?_, ?_, rest⟩
    · simpa [show written s rd.slot = fun v r => if r = rd.slot then v else slot s r from rfl] using regs
    · simpa [low] using pc
    · simpa [low, pcMark] using mark
  · have e : exec i s = .next (singleStore w ⟨ea, ea, false⟩ 0#4 (low rd s) s) := exec_of_thumbStoreForm row
    rw [low_eq] at e
    obtain ⟨t, e, stored, regs, pc, mark, rest⟩ := ends_singleStore e
    refine ⟨t, e, stored, ?_, ?_, ?_, rest⟩
    · simpa using regs
    · simpa using pc
    · simpa [pcMark] using mark

end Sys2Proof.Machine.Claims
end

section
/-! The scheduler: a step's cost leaves the budget and is ticked once (R40, R452, R453), a peripheral's next event (R456), and the quanta
of `Execute` (R450, R459, R460, R462). -/

namespace Sys2Proof.Machine.Claims

/-! ## Ticks before the next event (R456) -/

/-- Coming events that `n` more cycles brought nearer. -/
def nearer (n : Nat) : List Event → List Event
  | [] => []
  | e :: rest => { e with delay := e.delay - n } :: rest

/-- The first of the coming events satisfies `q`, if there is one. -/
def FirstDelay (q : Nat → Prop) : List Event → Prop
  | [] => True
  | e :: _ => q e.delay

theorem firstDelay_events {p : Peripheral} {q : Nat → Prop} (h : ∀ k, p.nextEvent = some k → q k) : FirstDelay q p.events := by
  unfold Peripheral.nextEvent at h
  cases he : p.events with
  | nil => trivial
  | cons e rest => exact h e.delay (by rw [he])

theorem firstDelay_later (es : List Event) : FirstDelay (0 < ·) (later es) := by
  cases es with
  | nil => trivial
  | cons e rest => exact Nat.lt_of_lt_of_le Nat.one_pos (Nat.le_max_right ..)

theorem FirstDelay.mono {q r : Nat → Prop} {es : List Event} (h : FirstDelay q es) (k : ∀ d, q d → r d) : FirstDelay r es := by
  cases es with
  | nil => trivial
  | cons e rest => exact k _ h

theorem firstDelay_nearer {n : Nat} {q : Nat → Prop} {es : List Event} (h : FirstDelay (fun d => q (d - n)) es) :
    FirstDelay q (nearer n es) := by
  cases es with
  | nil => trivial
  | cons e rest => exact h

@[simp] theorem nearer_zero (es : List Event) : nearer 0 es = es := by cases es <;> rfl

theorem nearer_nearer (a b : Nat) (es : List Event) : nearer b (nearer a es) = nearer (a + b) es := by
  cases es with
  | nil => rfl
  | cons e rest => simp [nearer, Nat.sub_sub]

theorem runEvents_before {n : Nat} {es : List Event} (h : FirstDelay (n < ·) es) (level : Bool) (m : Memory) :
    runEvents es n level m = ⟨nearer n es, n, level, m, false⟩ := by
  cases es with
  | nil => rfl
  | cons e rest => exact if_neg (Nat.not_le.2 h)

theorem tick_before {n : Nat} {p : Peripheral} (h : FirstDelay (n < ·) p.events) (m : Memory) :
    p.tick n m = ({ p with elapsed := p.elapsed + n, events := nearer n p.events }, m) := by
  simp [Peripheral.tick, Peripheral.run, runEvents_before h]

/-! ## Events that are due -/

section
variable {a b : Nat} {e : Event} (rest : List Event) (level : Bool) (m : Memory)

/-- Cycles that only bring the first event nearer can be taken off before. -/
theorem runEvents_nearer (due : e.delay = a + b) :
    runEvents ({ e with delay := b } :: rest) b level m = runEvents (e :: rest) (a + b) level m := by
  simp [runEvents, due]

theorem runEvents_left_of_due (due : e.delay = b) : (runEvents (e :: rest) b level m).left = 0 := by
  rw [runEvents, if_pos due.le, due, Nat.sub_self]
  have ended (level : Bool) (m : Memory) : (runEvents rest 0 level m).left = 0 := Nat.le_zero.1 (runEvents_left rest 0 level m)
  split
  · exact ended ..
  · exact ended ..
  · rfl

end

theorem run_zero {p : Peripheral} (h : FirstDelay (0 < ·) p.events) (m : Memory) (k : Nat) : p.run k 0 m = (p, m) := by
  cases k with
  | zero => rfl
  | succ k => simp [Peripheral.run, runEvents_before h]

/-- What is left after the last event that was due lies ahead. -/
theorem firstDelay_runEvents (es : List Event) : ∀ n level m, (runEvents es n level m).due = false →
    FirstDelay (0 < ·) (runEvents es n level m).events := by
  induction es with
  | nil => exact fun _ _ _ _ => trivial
  | cons e rest ih =>
    intro n level m
    rw [runEvents]
    split
    · split
      · exact ih _ _ _
      · exact ih _ _ _
      · exact nofun
    · exact fun _ => Nat.sub_pos_of_lt (by omega)

theorem runEvents_left_lt {n : Nat} {es : List Event} (h : FirstDelay (0 < ·) es) (level : Bool) (m : Memory)
    (due : (runEvents es n level m).due = true) : (runEvents es n level m).left < n := by
  cases es with
  | nil => exact nomatch due
  | cons e rest =>
    replace h : 0 < e.delay := h
    rw [runEvents] at due ⊢
    split at due
    next reached =>
      rw [if_pos reached]
      have ended (level : Bool) (m : Memory) := runEvents_left rest (n - e.delay) level m
      split
      · exact (ended ..).trans_lt (by omega)
      · exact (ended ..).trans_lt (by omega)
      · exact Nat.sub_lt (by omega) h
    next => exact nomatch due

/-- A run that has enough of the device's own events left takes all that are due: they are a cycle apart. -/
theorem firstDelay_run (k : Nat) : ∀ (n : Nat) (p : Peripheral) (m : Memory), n < k ∨ n = k ∧ FirstDelay (0 < ·) p.events →
    FirstDelay (0 < ·) (p.run k n m).1.events := by
  induction k with
  | zero => exact fun n p m h => (h.resolve_left (Nat.not_lt_zero n)).2
  | succ k ih =>
    intro n p m h
    rw [Peripheral.run]
    dsimp only
    split
    next due =>
      have left : (runEvents p.events n p.level m).left ≤ k := by
        rcases h with h | ⟨rfl, h⟩
        · exact (runEvents_left ..).trans (by omega)
        · exact Nat.le_of_lt_succ (runEvents_left_lt h _ _ due)
      exact ih _ _ _ (left.lt_or_eq.imp_right fun e => ⟨e, firstDelay_later _⟩)
    next due => exact firstDelay_runEvents _ _ _ _ (by simpa using due)

theorem firstDelay_tick (n : Nat) (p : Peripheral) (m : Memory) : FirstDelay (0 < ·) (p.tick n m).1.events :=
  firstDelay_run _ _ _ _ (.inl n.lt_succ_self)

/-! ## Two ticks in one -/

/-- A tick that ends at the first event: the cycles before it can be ticked first. -/
theorem tick_tick_of_due {a b : Nat} {p : Peripheral} {e : Event} {rest : List Event} (he : p.events = e :: rest)
    (due : e.delay = a + b) (hb : 0 < b) (m : Memory) :
    (p.tick a m).1.tick b (p.tick a m).2 = p.tick (a + b) m := by
  have before : FirstDelay (a < ·) p.events := by
    rw [he]
    exact show a < e.delay by omega
  have left := runEvents_left_of_due rest p.level m due
  rw [tick_before before, he]
  simp only [Peripheral.tick, Peripheral.run, nearer, he, show e.delay - a = b by omega, runEvents_nearer rest _ _ due, left,
    Nat.sub_zero, Nat.add_assoc]
  split
  · rw [run_zero (firstDelay_later _), run_zero (firstDelay_later _)]
    rfl
  · rfl

theorem tick_tick_before {a b : Nat} {p : Peripheral} (h : FirstDelay (a + b < ·) p.events) (m : Memory) :
    (p.tick a m).1.tick b (p.tick a m).2 = p.tick (a + b) m := by
  have first : FirstDelay (a < ·) p.events := h.mono fun _ => by omega
  have second : FirstDelay (b < ·) (nearer a p.events) := firstDelay_nearer (h.mono fun _ => by omega)
  rw [tick_before first, tick_before second, tick_before h, nearer_nearer, Nat.add_assoc]

theorem tick_tick {a b : Nat} {p : Peripheral} (h : FirstDelay (a + b ≤ ·) p.events) (m : Memory) :
    (p.tick a m).1.tick b (p.tick a m).2 = p.tick (a + b) m := by
  rcases Nat.eq_zero_or_pos b with rfl | hb
  · rw [tick_before (firstDelay_tick a p m)]
    simp
  · cases he : p.events with
    | nil => exact tick_tick_before (by rw [he]; trivial) m
    | cons e rest =>
      rw [he] at h
      rcases Nat.lt_or_eq_of_le h with early | due
      · exact tick_tick_before (by rw [he]; exact early) m
      · exact tick_tick_of_due he due.symm hb m

/-- Settles O58: before the first event only the clock and the distance to it change, by `tick_before`. -/
theorem nextEventIsALowerBound : Obligations.NextEventIsALowerBound := by
  intro p m
  refine ⟨fun j h => ?_, fun a b h => tick_tick (firstDelay_events h) m⟩
  rw [tick_before (firstDelay_events h)]
  exact ⟨rfl, rfl⟩

/-! ## What a step costs (R40, R452, R453) -/

theorem elapsed_account (s : State) : elapsed (account s) = (elapsed s).map (· + s.stepCost) := by
  rw [elapsed, account, tick_elapsed, elapsed, List.map_map]
  rfl

/-- What a step that goes on takes: on the halted path the skip, else the cost of the instruction with all that follows it. -/
theorem step_takes {s t : State} (e : step s = .next t) :
    (s.halted = true ∧ ∃ n, n = skipCycles (leastEvent s.plat.periphs) s.budget ∧ 1 ≤ n ∧ t.budget = s.budget - n ∧
      elapsed t = (elapsed s).map (· + n)) ∨
    (s.halted = false ∧ ∃ u, 1 ≤ u.stepCost ∧ u.budget = s.budget ∧ elapsed u = elapsed s ∧ t = account u) := by
  rcases step_next e with ⟨halted, rfl⟩ | ⟨awake, u, hu, rfl⟩
  · exact .inl ⟨halted, _, rfl, skipCycles_pos _ _, boundaryCheck_budget _, (elapsed_boundaryCheck _).trans (elapsed_skipped _ s)⟩
  · obtain ⟨budget, cost, clocks⟩ := executeFetched_cost hu
    have refill : u.stepCost ≤ (chargeRefill u).stepCost := by simp
    refine .inr ⟨awake, boundaryCheck (chargeRefill u), cost.trans (refill.trans (boundaryCheck_cost _)), by simp [budget], ?_, rfl⟩
    rw [elapsed_boundaryCheck, elapsed, chargeRefill_plat]
    exact clocks

/-- Settles O56: the two paths of `step_takes`. -/
theorem ticksMatchCosts : Obligations.TicksMatchCosts := by
  intro s t e
  rcases step_takes e with ⟨halted, n, hn, pos, budget, clocks⟩ | ⟨awake, u, pos, budget, clocks, rfl⟩
  · exact ⟨n, pos, budget, clocks, by simp [halted], fun _ => hn⟩
  · have ticked : account u = { u with budget := s.budget - u.stepCost }.tick u.stepCost := by rw [account, budget]
    refine ⟨u.stepCost, pos, ?_, ?_, fun _ => ⟨rfl, u, rfl, budget, clocks, ticked⟩, by simp [awake]⟩
    · rw [ticked]
      rfl
    · rw [elapsed_account, clocks]

/-- Each step takes at least one cycle from the budget, and the peripherals receive what it takes. -/
theorem step_spends {s t : State} (e : step s = .next t) :
    ∃ n : Nat, 1 ≤ n ∧ t.budget = s.budget - n ∧ elapsed t = (elapsed s).map (· + n) :=
  let ⟨n, pos, budget, clocks, _⟩ := ticksMatchCosts s t e
  ⟨n, pos, budget, clocks⟩

/-! ## The loop of `Execute` -/

theorem runLoop_of_spent (k : Nat) {s : State} (h : s.budget ≤ 0) : runLoop k s = .next s := by
  cases k with
  | zero => rfl
  | succ k => exact if_neg (by omega)

theorem runLoop_of_step (k : Nat) {s t : State} (h : 0 < s.budget) (e : step s = .next t) : runLoop (k + 1) s = runLoop k t := by
  rw [runLoop, if_pos h, e]

/-- An iteration that is followed by others went on. -/
theorem runLoop_next {k : Nat} {s t : State} (h : 0 < s.budget) (e : runLoop (k + 1) s = .next t) :
    ∃ u, step s = .next u ∧ runLoop k u = .next t := by
  rw [runLoop, if_pos h] at e
  cases hs : step s with
  | next u => exact ⟨u, rfl, by rwa [hs] at e⟩
  | fault _ => rw [hs] at e; exact nomatch e
  | refused _ => rw [hs] at e; exact nomatch e

/-- Iterations beyond the cycles of the budget change nothing (R460). -/
theorem runLoop_enough (k : Nat) : ∀ (j : Nat) (s : State),
    s.budget.toNat ≤ k → s.budget.toNat ≤ j → runLoop k s = runLoop j s := by
  induction k with
  | zero => exact fun j s hk _ => by rw [runLoop_of_spent j (by omega), runLoop]
  | succ k ih =>
    intro j s hk hj
    rcases Int.lt_or_le 0 s.budget with live | spent
    · obtain ⟨j, rfl⟩ := Nat.exists_eq_succ_of_ne_zero (show j ≠ 0 by omega)
      rw [runLoop, runLoop, if_pos live, if_pos live]
      cases hs : step s with
      | next u =>
        obtain ⟨n, pos, budget, -⟩ := step_spends hs
        exact ih j u (by omega) (by omega)
      | fault _ => rfl
      | refused _ => rfl
    · rw [runLoop_of_spent _ spent, runLoop_of_spent _ spent]

/-- The loop ends with the budget spent and every peripheral ticked by what was spent. -/
theorem runLoop_consumes (k : Nat) : ∀ {s t : State}, s.budget.toNat ≤ k → runLoop k s = .next t →
    t.budget ≤ 0 ∧ t.budget ≤ s.budget ∧ elapsed t = (elapsed s).map (· + (s.budget - t.budget).toNat) := by
  have ended {s t : State} (spent : s.budget ≤ 0) (e : Host.Outcome.next s = (.next t : Result)) :
      t.budget ≤ 0 ∧ t.budget ≤ s.budget ∧ elapsed t = (elapsed s).map (· + (s.budget - t.budget).toNat) := by
    obtain rfl := Host.Outcome.next.inj e
    exact ⟨spent, le_rfl, by simp⟩
  induction k with
  | zero => exact fun hk e => ended (by omega) e
  | succ k ih =>
    intro s t hk e
    rcases Int.lt_or_le 0 s.budget with live | spent
    · obtain ⟨u, hs, e⟩ := runLoop_next live e
      obtain ⟨n, pos, budget, clocks⟩ := step_spends hs
      obtain ⟨consumed, less, ticked⟩ := ih (by omega) e
      refine ⟨consumed, by omega, ?_⟩
      rw [ticked, clocks, List.map_map]
      refine congrArg (List.map · _) (funext fun x => ?_)
      rw [Function.comp_apply]
      omega
    · exact ended spent (runLoop_of_spent _ spent ▸ e)

/-- Settles O59. -/
theorem executeConsumesTheQuantum : Obligations.ExecuteConsumesTheQuantum := by
  intro target s
  refine ⟨fun h => runLoop_of_spent _ h, fun _ t e => ?_, fun k hk => runLoop_enough _ _ _ hk le_rfl⟩
  obtain ⟨consumed, -, ticked⟩ := runLoop_consumes (s := { s with budget := target }) target.toNat le_rfl e
  exact ⟨consumed, ticked⟩

/-! ## Two quanta in one (R459) -/

/-- The loop with a budget that is larger by `b` first does what the loop with the smaller one does, while no state is halted. -/
theorem runLoop_withBudget {b : Int} (hb : 0 ≤ b) (k : Nat) : ∀ {s t : State},
    (∀ j u, runLoop j (s.withBudget (s.budget + b)) = .next u → u.halted = false) → runLoop k s = .next t →
    ∃ j, ∀ i, runLoop (j + i) (s.withBudget (s.budget + b)) = runLoop i (t.withBudget (t.budget + b)) := by
  have ended {s t : State} (e : Host.Outcome.next s = (.next t : Result)) :
      ∃ j, ∀ i, runLoop (j + i) (s.withBudget (s.budget + b)) = runLoop i (t.withBudget (t.budget + b)) := by
    obtain rfl := Host.Outcome.next.inj e
    exact ⟨0, fun i => by rw [Nat.zero_add]⟩
  induction k with
  | zero => exact fun _ e => ended e
  | succ k ih =>
    intro s t awake e
    rcases Int.lt_or_le 0 s.budget with live | spent
    · obtain ⟨u, hs, e⟩ := runLoop_next live e
      have one : ∀ i, runLoop (i + 1) (s.withBudget (s.budget + b)) = runLoop i (u.withBudget (u.budget + b)) := fun i =>
        runLoop_of_step i (show 0 < s.budget + b by omega) (step_withBudget b (awake 0 (s.withBudget (s.budget + b)) rfl) hs)
      obtain ⟨j, hj⟩ := ih (fun j v ev => awake (j + 1) v ((one j).trans ev)) e
      exact ⟨j + 1, fun i => by rw [Nat.add_right_comm, one, hj]⟩
    · exact ended (runLoop_of_spent _ spent ▸ e)

/-- Settles O60: `runLoop_withBudget` takes the larger quantum to the end of the first, and iterations to spare change nothing. -/
theorem quantumSplitting : Obligations.QuantumSplitting := by
  intro a b s t _ hb awake e
  obtain ⟨j, hj⟩ := runLoop_withBudget (s := { s with budget := a }) hb _ awake e
  have second : execute (b + t.budget) t = runLoop (b + t.budget).toNat (t.withBudget (t.budget + b)) := by
    rw [Int.add_comm]
    rfl
  let i := (a + b).toNat + (b + t.budget).toNat
  calc execute (b + t.budget) t
      = runLoop i (t.withBudget (t.budget + b)) :=
        second.trans (runLoop_enough _ _ _ (by show (t.budget + b).toNat ≤ _; omega) (by show (t.budget + b).toNat ≤ _; omega))
    _ = runLoop (j + i) (s.withBudget (a + b)) := (hj i).symm
    _ = execute (a + b) s := runLoop_enough _ _ _ (by show (a + b).toNat ≤ _; omega) le_rfl

end Sys2Proof.Machine.Claims
end

section
/-! The accesses of a block transfer (R71, R72, R280, R281): the slots of a list ascending, their addresses, and the states that reading or
storing their words passes through. -/

namespace Sys2Proof.Machine.Claims

/-! ## The slots of a list -/

theorem slotsOf_eq (list : BitVec 16) : slotsOf list = slotsBelow list 16 := rfl

theorem slotsBelow_succ (list : BitVec 16) (k : Nat) :
    slotsBelow list (k + 1) = slotsBelow list k ++ if list.getLsbD k then [BitVec.ofNat 4 k] else [] := by
  rw [slotsBelow, List.range_succ, List.filter_append, List.map_append, slotsBelow]
  refine congrArg (_ ++ ·) ?_
  cases h : list.getLsbD k <;> simp [h]

theorem length_slotsBelow (list : BitVec 16) (k : Nat) : (slotsBelow list k).length = rank list k := List.length_map _

theorem mem_slots {list : BitVec 16} {r : Reg} : r ∈ slotsOf list ↔ inSlots list r = true := mem_slotsOf list r

theorem listBytes_slotsOf (list : BitVec 16) : listBytes (slotsOf list) = BitVec.ofNat 32 (4 * size list) := by
  rw [listBytes, slotsOf_eq, length_slotsBelow, size]

theorem blockStart_eq (p u : Bool) (base : Word) (list : BitVec 16) :
    blockStart p u base (slotsOf list) = startOf p u base (size list) := by
  rw [blockStart, listBytes_slotsOf]
  cases u <;> cases p <;> rfl

theorem blockWb_eq (u : Bool) (base : Word) (list : BitVec 16) : blockWb u base (slotsOf list) = backOf u base (size list) := by
  rw [blockWb, listBytes_slotsOf, backOf]

theorem slotAddr_eq (list : BitVec 16) (start : Word) {k : Nat} (hk : k < 16) :
    slotAddr list start (BitVec.ofNat 4 k) = wordAligned (start + BitVec.ofNat 32 (4 * (slotsBelow list k).length)) := by
  rw [slotAddr, BitVec.toNat_ofNat, Nat.mod_eq_of_lt hk, length_slotsBelow, wordAligned]

theorem rank_le (list : BitVec 16) (k : Nat) : rank list k ≤ k := by
  rw [rank]
  exact (List.length_filter_le ..).trans List.length_range.le

theorem rank_succ (list : BitVec 16) (k : Nat) : rank list (k + 1) = rank list k + if list.getLsbD k then 1 else 0 := by
  rw [← length_slotsBelow, slotsBelow_succ, List.length_append, length_slotsBelow]
  cases list.getLsbD k <;> rfl

theorem rank_mono (list : BitVec 16) {j k : Nat} (h : j ≤ k) : rank list j ≤ rank list k := by
  induction h with
  | refl => exact le_rfl
  | step _ ih => exact ih.trans (rank_succ list _ ▸ Nat.le_add_right ..)

/-- A listed slot counts for the slots above it. -/
theorem rank_lt {list : BitVec 16} {r r' : Reg} (hr : inSlots list r = true) (h : r.toNat < r'.toNat) :
    rank list r.toNat < rank list r'.toNat := by
  have next : rank list (r.toNat + 1) = rank list r.toNat + 1 := by rw [rank_succ, if_pos (show list.getLsbD r.toNat = true from hr)]
  exact Nat.lt_of_lt_of_le (by omega) (next ▸ rank_mono list h)

/-- The slots are listed in ascending order (R281). -/
theorem pairwise_slotsOf (list : BitVec 16) : (slotsOf list).Pairwise fun r r' => r.toNat < r'.toNat := by
  rw [slotsOf, List.pairwise_map]
  refine (List.pairwise_lt_range.filter _).imp_of_mem fun ha hb h => ?_
  rw [List.mem_filter, List.mem_range] at ha hb
  rw [BitVec.toNat_ofNat, BitVec.toNat_ofNat, Nat.mod_eq_of_lt ha.1, Nat.mod_eq_of_lt hb.1]
  exact h

/-! ## Word addresses -/

theorem toNat_wordAligned (a : Word) : (wordAligned a).toNat = a.toNat / 4 * 4 := by
  have h := wordAligned_add a 0
  rw [BitVec.add_zero] at h
  rw [h, BitVec.toNat_ofNat]
  omega

/-- The bytes of an aligned word lie in one block of four. -/
theorem div_of_mem_byteAddrs {a b : Word} (ha : a.toNat % 4 = 0) (hb : b ∈ byteAddrs a .word) : b.toNat / 4 = a.toNat / 4 := by
  simp only [byteAddrs, List.mem_cons, List.not_mem_nil, or_false] at hb
  rcases hb with rfl | rfl | rfl | rfl <;> simp only [BitVec.toNat_add, BitVec.toNat_ofNat] <;> omega

/-- Two listed slots have no byte in common: at most 16 words are transferred. -/
theorem slotAddr_disjoint {list : BitVec 16} {r r' : Reg} (start : Word) (hr : inSlots list r = true) (h : r.toNat < r'.toNat) :
    ∀ b ∈ byteAddrs (slotAddr list start r) .word, ∀ b' ∈ byteAddrs (slotAddr list start r') .word, b ≠ b' := by
  have lt := rank_lt hr h
  have le := rank_le list r'.toNat
  have bound := r'.isLt
  have addr (x : Reg) : (slotAddr list start x).toNat = (start.toNat + 4 * rank list x.toNat) % 2 ^ 32 / 4 * 4 := by
    rw [slotAddr, ← wordAligned, toNat_wordAligned, BitVec.toNat_add, BitVec.toNat_ofNat, Nat.add_mod_mod]
  rintro b hb b' hb' rfl
  have e := div_of_mem_byteAddrs (by rw [addr]; omega) hb
  have e' := div_of_mem_byteAddrs (by rw [addr]; omega) hb'
  rw [addr] at e e'
  omega

/-! ## Reading the words -/

theorem memRead_word (a : Word) (s : State) : (memRead a .word s).1 = wordAt (asked s a .word).mem a := rfl

theorem next_word (a : Word) (k : Nat) : a + 4#32 + BitVec.ofNat 32 (4 * k) = a + BitVec.ofNat 32 (4 * (k + 1)) := by
  rw [Nat.mul_succ, BitVec.ofNat_add, BitVec.add_comm (BitVec.ofNat 32 (4 * k)), ← BitVec.add_assoc]

theorem loadSlots_append (l : List Reg) (r : Reg) : ∀ (a : Word) (s : State),
    let x := loadSlots l a s
    let y := memRead (wordAligned (a + BitVec.ofNat 32 (4 * l.length))) .word x.2
    loadSlots (l ++ [r]) a s = (x.1 ++ [(r, y.1)], y.2) := by
  induction l with
  | nil => intro a s; simp [loadSlots]
  | cons r' l ih =>
    intro a s
    simp [loadSlots, ih, next_word]

theorem readBelow_succ (s : State) (list : BitVec 16) (start : Word) (k : Nat) (h : list.getLsbD k = true) :
    readBelow s list start (k + 1) = asked (readBelow s list start k) (slotAddr list start (BitVec.ofNat 4 k)) .word := by
  rw [readBelow, slotsBelow_succ, if_pos h, List.foldl_append]
  rfl

/-- The loads of a block transfer: each slot with its word, in the states that `readBelow` names. -/
theorem loadSlots_slotsBelow (s : State) (list : BitVec 16) (start : Word) (k : Nat) (hk : k ≤ 16) :
    loadSlots (slotsBelow list k) start s =
      ((slotsBelow list k).map fun r => (r, loadedSlot s list start r), readBelow s list start k) := by
  induction k with
  | zero => rfl
  | succ k ih =>
    cases h : list.getLsbD k
    · have same : slotsBelow list (k + 1) = slotsBelow list k := by simp [slotsBelow_succ, h]
      rw [readBelow, same]
      exact ih (by omega)
    · rw [slotsBelow_succ, if_pos h, loadSlots_append, ih (by omega), ← slotAddr_eq list start (by omega), memRead_word, List.map_append,
        List.map_singleton, loadedSlot, BitVec.toNat_ofNat, Nat.mod_eq_of_lt (by omega), readBelow_succ s list start k h]
      rfl

section
variable (addr : Reg → Word) (l : List Reg) (s : State)

theorem seen_reads : Seen s (l.foldl (fun u r => asked u (addr r) .word) s) := by
  induction l using List.reverseRecOn with
  | nil => exact Seen.refl s
  | append_singleton l r ih =>
    rw [List.foldl_append]
    exact ih.trans (Seen.memRead ..)

theorem mem_reads (h : ∀ r ∈ l, Unwatched s (addr r) .word) : (l.foldl (fun u r => asked u (addr r) .word) s).mem = s.mem := by
  induction l using List.reverseRecOn with
  | nil => rfl
  | append_singleton l r ih =>
    rw [List.forall_mem_append] at h
    rw [List.foldl_append]
    refine (asked_mem_of_unwatched ?_).trans (ih h.1)
    rw [Unwatched, (seen_reads addr l s).windows]
    exact h.2 r (List.mem_singleton.2 rfl)

end

theorem mem_slotsBelow {list : BitVec 16} {r : Reg} {k : Nat} (h : r ∈ slotsBelow list k) (hk : k ≤ 16) :
    inSlots list r = true := by
  simp only [slotsBelow, List.mem_map, List.mem_filter, List.mem_range] at h
  obtain ⟨j, ⟨hj, h⟩, rfl⟩ := h
  rwa [inSlots, BitVec.toNat_ofNat, Nat.mod_eq_of_lt (by omega)]

theorem seen_readBelow (s : State) (list : BitVec 16) (start : Word) (k : Nat) : Seen s (readBelow s list start k) :=
  seen_reads ..

/-- What a block load's accesses leave, seen through updates of the registers, pc and CPSR. -/
theorem readBlock_of_same {s t : State} {list : BitVec 16} {start : Word} (k : SameOutside (readBelow s list start 16) t)
    (cost : t.stepCost = (readBelow s list start 16).stepCost + 1) : ReadBlock s t list start := by
  have plain (h : UnwatchedBlock s list start) {n : Nat} (hn : n ≤ 16) : (readBelow s list start n).mem = s.mem :=
    mem_reads _ _ _ fun r hr => h r (mem_slotsBelow hr hn)
  refine ⟨⟨k.mem, k.plat, k.lastAccess⟩, cost, fun h => ⟨fun a => ?_, fun r _ => ?_⟩, fun n hn => ?_⟩
  · rw [k.mem, plain h le_rfl]
  · rw [loadedSlot, plain h (by omega)]
  · rw [k.mem]
    exact (seen_readBelow ..).kept n hn

/-! ## Register writes commute -/

theorem setPhys_comm {p q : PhysReg} (h : p ≠ q) (x y : Word) (s : State) :
    (s.setPhys p x).setPhys q y = (s.setPhys q y).setPhys p x := by
  simp only [State.setPhys, Vector.set_comm _ _ (PhysReg.index_val_ne h)]

theorem writeReg_comm {a b : Reg} (h : a ≠ b) (x y : Word) (s : State) :
    writeReg b y (writeReg a x s) = writeReg a x (writeReg b y s) := by
  by_cases ha : a = 15#4
  · have hb : b ≠ 15#4 := fun e => h (ha.trans e.symm)
    subst ha
    rw [writeReg_of_ne hb, writeReg_of_ne hb]
    rfl
  · by_cases hb : b = 15#4
    · subst hb
      rw [writeReg_of_ne ha, writeReg_of_ne ha]
      rfl
    · rw [writeReg_of_ne ha, writeReg_of_ne ha, writeReg_of_ne hb, writeReg_of_ne hb]
      exact setPhys_comm (fun e => h (physReg_inj ha hb e)) x y s

theorem writeSlots_writeReg {a : Reg} {x : Word} {s : State} (l : List (Reg × Word)) (h : ∀ c ∈ l, a ≠ c.1) :
    writeSlots writeReg l (writeReg a x s) = writeReg a x (writeSlots writeReg l s) := by
  induction l generalizing s with
  | nil => rfl
  | cons c l ih =>
    rw [List.forall_mem_cons] at h
    rw [writeSlots, writeReg_comm h.1, ih h.2]
    rfl

/-! ## Writing the loaded registers -/

section
variable {s t : State} (g : Reg → Word) (l : List Reg)

theorem SameOutside.writeSlots (h : SameOutside s t) (l : List (Reg × Word)) :
    SameOutside s (Machine.writeSlots Machine.writeReg l t) := by
  induction l generalizing t with
  | nil => exact h
  | cons c l ih => exact ih (h.writeReg c.1 c.2)

theorem Registers.writeSlots {val : Reg → Word} (h : Registers s t val) (hm : t.cpsr.mode = s.cpsr.mode) :
    Registers s (Machine.writeSlots Machine.writeReg (l.map fun r => (r, g r)) t) fun r => if r ∈ l then g r else val r := by
  obtain ⟨-, -, -, -, -, listed, others, -⟩ := writeSlots_spec g l t
  rw [hm] at listed others
  exact ⟨fun r hr => (listed r hr).trans (by rw [h.1 r hr]), fun p hp => (others p hp).trans (h.2 p hp)⟩

theorem writeSlots_cpsr : (Machine.writeSlots Machine.writeReg (l.map fun r => (r, g r)) t).cpsr = t.cpsr :=
  (writeSlots_spec g l t).1

theorem writeSlots_pc : (Machine.writeSlots Machine.writeReg (l.map fun r => (r, g r)) t).pc =
    if 15#4 ∈ l then alignPc t.cpsr.t (g 15#4) else t.pc := by
  obtain ⟨-, -, -, -, -, -, -, pc⟩ := writeSlots_spec g l t
  exact pc

theorem writeSlots_stepCost (l : List (Reg × Word)) : (Machine.writeSlots Machine.writeReg l t).stepCost = t.stepCost := by
  induction l generalizing t with
  | nil => rfl
  | cons c l ih => exact ih.trans (writeReg_stepCost ..)

end

/-! ## Storing the words -/

section
variable (addr val : Reg → Word)

/-- Stores one after the other. -/
def storeEach (l : List Reg) (s : State) : State := l.foldl (fun u r => memWrite (addr r) .word (val r) u) s

theorem writeBlock_eq (s : State) (list : BitVec 16) (start : Word) :
    writeBlock s list start val = storeEach (slotAddr list start) val (slotsOf list) s := rfl

variable (l : List Reg) (s : State)

theorem storeEach_cons (r : Reg) : storeEach addr val (r :: l) s = storeEach addr val l (memWrite (addr r) .word (val r) s) := rfl

variable {addr val l s}

theorem storeEach_read_ne {k : Nat} (h : ∀ r ∈ l, ∀ b ∈ byteAddrs (addr r) .word, k ≠ b.toNat)
    (hu : (∀ r ∈ l, Unwatched s (addr r) .word) ∨ NoRegister s k) : (storeEach addr val l s).mem.read k = s.mem.read k := by
  induction l generalizing s with
  | nil => rfl
  | cons r l ih =>
    rw [List.forall_mem_cons] at h
    rw [storeEach_cons, ih h.2]
    · exact memWrite_read_ne _ _ _ _ h.1 (hu.imp_left fun g => g r (List.mem_cons_self ..))
    · refine hu.imp (fun g r' hr' => unwatched_memWrite.2 (g r' (List.mem_cons_of_mem _ hr'))) fun g => ?_
      rw [NoRegister, memWrite_windows]
      exact g

/-- Each word stands at its address, when the addresses have no byte in common. -/
theorem storeEach_read (apart : l.Pairwise fun r r' => ∀ b ∈ byteAddrs (addr r) .word, ∀ b' ∈ byteAddrs (addr r') .word, b ≠ b')
    (hu : ∀ r ∈ l, Unwatched s (addr r) .word) (wf : s.mem.wf = true) :
    ∀ r ∈ l, ∀ c ∈ (byteAddrs (addr r) .word).zip (valueBytes (val r) .word),
      (storeEach addr val l s).mem.read c.1.toNat =
        maskedByte (maskAt s.plat.writeMasks c.1.toNat) (s.mem.read c.1.toNat) c.2 := by
  induction l generalizing s with
  | nil => exact nofun
  | cons r l ih =>
    rw [List.pairwise_cons] at apart
    rw [List.forall_mem_cons] at hu
    have later : ∀ r' ∈ l, Unwatched (memWrite (addr r) .word (val r) s) (addr r') .word := fun r' hr' =>
      unwatched_memWrite.2 (hu.2 r' hr')
    refine List.forall_mem_cons.2 ⟨fun c hc => ?_, fun r' hr' c hc => ?_⟩
    · have here := mem_zip_byteAddrs hc
      rw [storeEach_cons, storeEach_read_ne (fun r' hr' b hb e => apart.1 r' hr' c.1 here b hb (BitVec.eq_of_toNat_eq e)) (.inl later)]
      exact memWrite_read _ _ _ _ hu.1 wf hc
    · have there := mem_zip_byteAddrs hc
      rw [storeEach_cons, ih apart.2 later (memWrite_wf _ _ _ _ wf) r' hr' c hc, memWrite_writeMasks,
        memWrite_read_ne _ _ _ _ (fun b hb e => apart.1 r' hr' b hb c.1 there (BitVec.eq_of_toNat_eq e.symm)) (.inl hu.1)]

theorem storeEach_halted (hu : ∀ r ∈ l, Unwatched s (addr r) .word) :
    (storeEach addr val l s).halted = true ↔ s.halted = true ∨ ∃ r ∈ l, platformAsks s (addr r) .word (val r) = true := by
  induction l generalizing s with
  | nil => simp [storeEach]
  | cons r l ih =>
    rw [List.forall_mem_cons] at hu
    have asks (r' : Reg) : platformAsks (memWrite (addr r) .word (val r) s) (addr r') .word (val r') =
        platformAsks s (addr r') .word (val r') := by
      simp [platformAsks, Platform.haltRequest]
    have halted : (memWrite (addr r) .word (val r) s).halted = (s.halted || platformAsks s (addr r) .word (val r)) := by
      rw [← haltAsked_of_unwatched _ hu.1]
      exact memWrite_halted ..
    rw [storeEach_cons, ih fun r' hr' => unwatched_memWrite.2 (hu.2 r' hr'), halted, Bool.or_eq_true, or_assoc]
    simp only [asks, List.exists_mem_cons_iff]

end

/-! ## The stores of the model -/

/-- The states agree on what a stored value can be read from, and on the rest of the core but what an access costs. -/
structure SameCore (s t : State) : Prop where
  regs : t.regs = s.regs
  pc : t.pc = s.pc
  cpsr : t.cpsr = s.cpsr
  spsr : ∀ b, t.spsr b = s.spsr b
  budget : t.budget = s.budget
  wrotePc : t.wrotePc = s.wrotePc

theorem SameCore.refl (s : State) : SameCore s s := ⟨rfl, rfl, rfl, fun _ => rfl, rfl, rfl⟩

theorem SameCore.trans {s t u : State} (h : SameCore s t) (k : SameCore t u) : SameCore s u :=
  ⟨k.regs.trans h.regs, k.pc.trans h.pc, k.cpsr.trans h.cpsr, fun b => (k.spsr b).trans (h.spsr b), k.budget.trans h.budget,
    k.wrotePc.trans h.wrotePc⟩

theorem sameCore_memWrite (a : Word) (w : Width) (v : Word) (s : State) : SameCore s (memWrite a w v s) :=
  have ⟨regs, pc, cpsr, saved, budget, mark, _⟩ := memWrite_rest a w v s
  ⟨regs, pc, cpsr, saved, budget, mark⟩

theorem sameCore_storeEach (addr val : Reg → Word) (l : List Reg) (s : State) : SameCore s (storeEach addr val l s) := by
  induction l generalizing s with
  | nil => exact SameCore.refl s
  | cons r l ih => exact (sameCore_memWrite ..).trans (ih _)

theorem memWrite_setPhys (a : Word) (w : Width) (v : Word) (p : PhysReg) (x : Word) (s : State) :
    memWrite a w v (s.setPhys p x) = (memWrite a w v s).setPhys p x := by
  show State.examineHalt _ _ = (State.examineHalt _ _).setPhys p x
  unfold State.examineHalt
  split
  · next h => rw [if_pos]; rfl; exact h
  · next h => rw [if_neg]; rfl; exact h

theorem memWrite_writePc (a : Word) (w : Width) (v x : Word) (s : State) :
    memWrite a w v (writePc x s) = writePc x (memWrite a w v s) := by
  show State.examineHalt _ _ = writePc x (State.examineHalt _ _)
  unfold State.examineHalt
  split
  · next h => rw [if_pos]; rfl; exact h
  · next h => rw [if_neg]; rfl; exact h

theorem memWrite_blockWriteBack (a : Word) (v : Word) (w : Bool) (rn : Reg) (wb : Word) (s : State) :
    memWrite a .word v (blockWriteBack w rn wb s) = blockWriteBack w rn wb (memWrite a .word v s) := by
  cases w
  · rfl
  · show memWrite a .word v (writeReg rn wb s) = writeReg rn wb (memWrite a .word v s)
    unfold writeReg
    split
    · exact memWrite_writePc ..
    · rw [memWrite_setPhys, memWrite_cpsr]

theorem storeEach_blockWriteBack (addr val : Reg → Word) (l : List Reg) (w : Bool) (rn : Reg) (wb : Word) (s : State) :
    storeEach addr val l (blockWriteBack w rn wb s) = blockWriteBack w rn wb (storeEach addr val l s) := by
  induction l generalizing s with
  | nil => rfl
  | cons r l ih => rw [storeEach_cons, memWrite_blockWriteBack, ih, storeEach_cons]

/-- The stores of a list of slots whose addresses are given by place are those whose addresses are given by slot. -/
theorem storeSlots_eq {value : Reg → State → Word} {addr val : Reg → Word} (l : List Reg) : ∀ {a : Word} {s : State},
    (∀ k (h : k < l.length), addr l[k] = wordAligned (a + BitVec.ofNat 32 (4 * k))) →
    (∀ r ∈ l, ∀ u, SameCore s u → value r u = val r) → storeSlots value l a s = storeEach addr val l s := by
  induction l with
  | nil => exact fun _ _ => rfl
  | cons r l ih =>
    intro a s ha hv
    rw [List.forall_mem_cons] at hv
    have here : addr r = wordAligned a := by simpa using ha 0 (Nat.succ_pos _)
    rw [storeSlots, storeEach_cons, here, hv.1 s (SameCore.refl s)]
    refine ih (fun k hk => ?_) fun r' hr' u hu => hv.2 r' hr' u ((sameCore_memWrite ..).trans hu)
    rw [next_word]
    exact ha (k + 1) (by simpa using hk)

theorem rank_of_getElem? {list : BitVec 16} {n k : Nat} {r : Reg} (hn : n ≤ 16) (h : (slotsBelow list n)[k]? = some r) :
    rank list r.toNat = k := by
  induction n with
  | zero => exact nomatch h
  | succ n ih =>
    rw [slotsBelow_succ] at h
    cases listed : list.getLsbD n
    · rw [listed, if_neg Bool.false_ne_true, List.append_nil] at h
      exact ih (by omega) h
    · rw [if_pos listed, List.getElem?_append] at h
      split at h
      · exact ih (by omega) h
      · next above =>
        obtain ⟨first, e⟩ := Option.ite_none_right_eq_some.1 (List.getElem?_singleton.symm.trans h)
        obtain rfl := Option.some.inj e
        rw [length_slotsBelow] at above first
        rw [BitVec.toNat_ofNat, Nat.mod_eq_of_lt (by omega)]
        omega

theorem rank_getElem (list : BitVec 16) (k : Nat) (hk : k < (slotsOf list).length) : rank list (slotsOf list)[k].toNat = k :=
  rank_of_getElem? le_rfl (List.getElem?_eq_getElem hk)

/-- The slot at place `k` of a list is transferred `4k` bytes from the start (R281). -/
theorem slotAddr_getElem (list : BitVec 16) (start : Word) (k : Nat) (hk : k < (slotsOf list).length) :
    slotAddr list start (slotsOf list)[k] = wordAligned (start + BitVec.ofNat 32 (4 * k)) := by
  rw [slotAddr, rank_getElem list k hk, wordAligned]

section
variable {value : Reg → State → Word} {val : Reg → Word} {list : BitVec 16} (start : Word) {s : State}

theorem storeSlots_slotsOf (h : ∀ r, inSlots list r = true → ∀ u, SameCore s u → value r u = val r) :
    storeSlots value (slotsOf list) start s = writeBlock s list start val :=
  storeSlots_eq _ (slotAddr_getElem list start) fun r hr => h r (mem_slots.1 hr)

theorem slotsOf_ne_nil (ne : list ≠ 0#16) : slotsOf list ≠ [] := by
  refine fun e => ne (BitVec.eq_of_getLsbD_eq fun k hk => ?_)
  have none := mt (mem_slotsOf list (BitVec.ofNat 4 k)).2 (e ▸ List.not_mem_nil)
  rw [BitVec.toNat_ofNat, Nat.mod_eq_of_lt (by omega)] at none
  simpa using none

/-- The stores with the base written back after the first: the slots above the lowest are read after the write-back, which no store
looks at otherwise (R282). -/
theorem storeBlock_slotsOf (ne : list ≠ 0#16) {w : Bool} {rn : Reg} {wb : Word}
    (first : ∀ r, inSlots list r = true → rank list r.toNat = 0 → value r s = val r)
    (others : ∀ r, inSlots list r = true → rank list r.toNat ≠ 0 →
      ∀ u, SameCore (blockWriteBack w rn wb s) u → value r u = val r) :
    storeBlock value (blockWriteBack w rn wb) (slotsOf list) start s = blockWriteBack w rn wb (writeBlock s list start val) := by
  have addr := slotAddr_getElem list start
  have place := rank_getElem list
  have listed : ∀ r ∈ slotsOf list, inSlots list r = true := fun r => mem_slots.1
  rw [writeBlock_eq]
  cases hl : slotsOf list with
  | nil => exact absurd hl (slotsOf_ne_nil ne)
  | cons r rest =>
    simp only [hl] at addr place listed
    rw [List.forall_mem_cons] at listed
    have here : slotAddr list start r = wordAligned start := by simpa using addr 0 (Nat.succ_pos _)
    have lowest : rank list r.toNat = 0 := place 0 (Nat.succ_pos _)
    rw [storeBlock, first r listed.1 lowest, ← here, storeEach_cons, ← storeEach_blockWriteBack]
    refine storeSlots_eq rest (fun k hk => ?_) fun r' hr' u hu => others r' (listed.2 r' hr') ?_ u ?_
    · rw [next_word]
      exact addr (k + 1) (Nat.succ_lt_succ hk)
    · obtain ⟨k, hk, rfl⟩ := List.getElem_of_mem hr'
      have above : rank list rest[k].toNat = k + 1 := place (k + 1) (Nat.succ_lt_succ hk)
      omega
    · refine SameCore.trans ?_ hu
      rw [← memWrite_blockWriteBack]
      exact sameCore_memWrite ..

end

/-- What a block store's accesses leave, seen through updates of the registers and pc. -/
theorem storedBlock_of_same {s t : State} {list : BitVec 16} {start : Word} {val : Reg → Word}
    (k : SameOutside (writeBlock s list start val) t) (cost : t.stepCost = (writeBlock s list start val).stepCost) :
    StoredBlock s t list start val := by
  have plain (h : UnwatchedBlock s list start) : ∀ r ∈ slotsOf list, Unwatched s (slotAddr list start r) .word :=
    fun r hr => h r (mem_slots.1 hr)
  have apart := (pairwise_slotsOf list).imp_of_mem fun ha _ h => slotAddr_disjoint start (mem_slots.1 ha) h
  refine ⟨⟨k.mem, k.plat, k.lastAccess⟩, k.halted, cost, fun h => ⟨fun wf r hr => ?_, ?_⟩, fun n hn hu => ?_⟩
  · rw [k.mem, writeBlock_eq]
    exact storeEach_read apart (plain h) wf r (mem_slots.2 hr)
  · rw [k.halted, writeBlock_eq, storeEach_halted (plain h)]
    simp only [mem_slots]
  · rw [k.mem, writeBlock_eq]
    exact storeEach_read_ne (fun r hr => hn r (mem_slots.1 hr)) (hu.imp_left plain)

end Sys2Proof.Machine.Claims
end

section
/-! Block transfers (R280 to R287, R410 to R413): the accesses of `readBelow` and `writeBlock`, the write-back, the registers. -/

namespace Sys2Proof.Machine.Claims

/-! ## LDM and its kin -/

section
variable {i : Instr} {s : State} {list : BitVec 16} {start : Word} {w : Bool} {rn : Reg} {wb : Word}

theorem loadSlots_slotsOf (s : State) (list : BitVec 16) (start : Word) :
    loadSlots (slotsOf list) start s =
      ((slotsOf list).map fun r => (r, loadedSlot s list start r), readBelow s list start 16) :=
  loadSlots_slotsBelow s list start 16 le_rfl

/-- The registers, pc and mark after the loads, the write-back and the registers of a block load. -/
theorem registers_blockLoad (s : State) (list : BitVec 16) (start : Word) (w : Bool) (rn : Reg) (wb : Word) :
    let v := loadedSlot s list start
    let t := writeSlots writeReg ((slotsOf list).map fun r => (r, v r)) (blockWriteBack w rn wb (readBelow s list start 16))
    Registers s t fun r => if inSlots list r then v r else if w = true ∧ r = rn then wb else slot s r := by
  intro v t
  have seen := seen_readBelow s list start 16
  have regs := ((registers_of_regs seen.regs).writeBack w rn wb (congrArg Cpsr.mode seen.cpsr)).writeSlots v (slotsOf list)
    (by rw [blockWriteBack_cpsr, seen.cpsr])
  simpa only [mem_slots] using regs

/-- What a block load leaves: its slots' words win over the written-back base (R282, R283). -/
theorem ends_blockLoad
    (e : exec i s = .next ((writeSlots writeReg (loadSlots (slotsOf list) start s).1
      (blockWriteBack w rn wb (loadSlots (slotsOf list) start s).2)).charge .loadM)) :
    let v := loadedSlot s list start
    Ends i s fun t =>
      ReadBlock s t list start ∧
      Registers s t (fun r => if inSlots list r then v r else if w = true ∧ r = rn then wb else slot s r) ∧
      t.pc = (if inSlots list 15#4 then alignPc s.cpsr.t (v 15#4)
        else if w = true ∧ rn = 15#4 then alignPc s.cpsr.t wb else s.pc) ∧
      t.wrotePc = pcMark s (inSlots list 15#4 = true ∨ w = true ∧ rn = 15#4) ∧
      t.cpsr = s.cpsr ∧ SavedKept s t ∧ t.halted = s.halted ∧ t.budget = s.budget := by
  intro v
  let u := readBelow s list start 16
  let b := blockWriteBack w rn wb u
  let t := writeSlots writeReg ((slotsOf list).map fun r => (r, v r)) b
  have seen : Seen s u := seen_readBelow ..
  have back : b.cpsr = s.cpsr := (blockWriteBack_cpsr ..).trans seen.cpsr
  have same : SameOutside u (t.charge .loadM) := (((SameOutside.refl u).writeBack ..).writeSlots _).charge .loadM
  refine ⟨t.charge .loadM, ?_, readBlock_of_same same ?_, registers_blockLoad s list start w rn wb, ?_, ?_, ?_, ?_, ?_, ?_⟩
  · rw [e, loadSlots_slotsOf]
  · rw [charge_stepCost, writeSlots_stepCost, blockWriteBack_stepCost]
    rfl
  · rw [charge_pc, writeSlots_pc, blockWriteBack_pc, back, seen.pc, seen.cpsr]
    simp only [mem_slots]
  · rw [charge_wrotePc, writeSlots_wrotePc, blockWriteBack_wrotePc, seen.wrotePc, pcMark, Bool.or_assoc, Bool.or_comm (decide _),
      ← Bool.decide_or]
    simp only [mem_slots]
  · rw [charge_cpsr, writeSlots_cpsr, back]
  · exact fun b => (same.spsr b).trans (seen.spsr b)
  · exact same.halted.trans seen.halted
  · exact same.budget.trans seen.budget

end

/-- Settles O40. -/
theorem loadMultiple : Obligations.LoadMultiple := by
  intro f s hc ne
  have e := exec_passed (i := .ldm f) (fun _ => rfl) hc
  rw [ldmBody, if_neg ne, blockStart_eq, blockWb_eq] at e
  exact ends_blockLoad e

/-! ## LDM of the user bank -/

theorem writeSlots_user (l : List (Reg × Word)) : ∀ s, ∃ regs, writeSlots writeUser l s = { s with regs := regs } := by
  induction l with
  | nil => exact fun s => ⟨s.regs, rfl⟩
  | cons c l ih =>
    intro s
    obtain ⟨regs, e⟩ := ih (writeUser c.1 c.2 s)
    exact ⟨regs, e⟩

section
variable (g : Reg → Word) (l : List Reg) (s : State)

theorem phys_writeSlots_user_ne {p : PhysReg} (h : ∀ r ∈ l, p ≠ physReg .usr r) :
    (writeSlots writeUser (l.map fun r => (r, g r)) s).phys p = s.phys p := by
  induction l generalizing s with
  | nil => rfl
  | cons c l ih =>
    rw [List.forall_mem_cons] at h
    exact (ih _ h.2).trans (phys_setPhys_ne h.1 _ s)

theorem phys_writeSlots_user {r : Reg} (hl : ∀ r ∈ l, r ≠ 15#4) (h : r ∈ l) :
    (writeSlots writeUser (l.map fun r => (r, g r)) s).phys (physReg .usr r) = g r := by
  induction l generalizing s with
  | nil => exact nomatch h
  | cons c l ih =>
    rw [List.forall_mem_cons] at hl
    by_cases hr : r ∈ l
    · exact ih _ hl.2 hr
    · obtain rfl := (List.mem_cons.1 h).resolve_right hr
      have others : ∀ r' ∈ l, physReg .usr r ≠ physReg .usr r' := fun r' hr' e =>
        hr (physReg_inj hl.1 (hl.2 r' hr') e ▸ hr')
      exact (phys_writeSlots_user_ne g l _ others).trans (phys_setPhys_same ..)

end

theorem ends_ldmUser (f : BdtLowFields) (s : State) (hc : condPassed f.cond s.cpsr = true) (ne : f.list ≠ 0#15) (hw : f.w = false) :
    let list := f.list.setWidth 16
    let start := startOf f.p f.u (readArm f.rn s) (size list)
    let v := loadedSlot s list start
    Ends (.ldmUser f) s fun t =>
      ReadBlock s t list start ∧
      (∀ r, inSlots list r = true → t.phys (physReg .usr r) = v r) ∧
      (∀ p, (∀ r, inSlots list r = true → p ≠ physReg .usr r) → t.phys p = s.phys p) ∧
      t.pc = s.pc ∧ t.wrotePc = s.wrotePc ∧ t.cpsr = s.cpsr ∧ SavedKept s t ∧ t.halted = s.halted ∧ t.budget = s.budget := by
  intro list start v
  let u := readBelow s list start 16
  let t := writeSlots writeUser ((slotsOf list).map fun r => (r, v r)) u
  have e : exec (.ldmUser f) s = .next (t.charge .loadM) := by
    have e := exec_passed (i := .ldmUser f) (fun _ => rfl) hc
    rw [ldmUserBody, if_neg ne, hw, if_neg Bool.false_ne_true, blockStart_eq, loadSlots_slotsOf] at e
    exact e
  have seen : Seen s u := seen_readBelow ..
  have phys (p : PhysReg) : u.phys p = s.phys p := phys_of_regs seen.regs p
  have low : ∀ r ∈ slotsOf list, r ≠ 15#4 := by
    rintro r hr rfl
    exact absurd (mem_slots.1 hr) (by simp [inSlots, list])
  obtain ⟨regs, ht⟩ : ∃ regs, t = { u with regs := regs } := writeSlots_user _ u
  have same : SameOutside u (t.charge .loadM) := by
    rw [ht]
    exact ⟨rfl, rfl, rfl, fun b => by cases b <;> rfl, rfl, rfl⟩
  refine ⟨t.charge .loadM, e, readBlock_of_same same ?_, fun r hr => ?_, fun p hp => ?_, ?_, ?_, ?_,
    fun b => (same.spsr b).trans (seen.spsr b), same.halted.trans seen.halted, same.budget.trans seen.budget⟩
  · rw [charge_stepCost, ht]
    rfl
  · exact phys_writeSlots_user v _ u low (mem_slots.2 hr)
  · exact (phys_writeSlots_user_ne v _ u fun r hr => hp r (mem_slots.1 hr)).trans (phys p)
  · rw [charge_pc, ht, ← seen.pc]
  · rw [charge_wrotePc, ht, ← seen.wrotePc]
  · rw [charge_cpsr, ht, ← seen.cpsr]

/-! ## LDM with the CPSR restored -/

theorem slotsOf_return (list : BitVec 15) : slotsOf (1#1 ++ list) = slotsOf (list.setWidth 16) ++ [15#4] := by
  have top : (1#1 ++ list).getLsbD 15 = true := by
    rw [BitVec.getLsbD_append]
    simp
  have rest : slotsBelow (1#1 ++ list) 15 = slotsBelow (list.setWidth 16) 15 := by
    refine congrArg (List.map _) (List.filter_congr fun j hj => ?_)
    have lt : j < 15 := List.mem_range.1 hj
    rw [BitVec.getLsbD_append]
    simp [lt, show j < 16 by omega]
  have none : (list.setWidth 16).getLsbD 15 = false := by simp
  rw [slotsOf_eq, slotsOf_eq, slotsBelow_succ _ 15, slotsBelow_succ _ 15, top, none, rest]
  simp

/-- What LDM form 3 has done when the exception return begins: the slots below 15, and the word that goes to pc. -/
def returnState (f : BdtLowFields) (s : State) : State :=
  let list := 1#1 ++ f.list
  let base := readArm f.rn s
  let start := startOf f.p f.u base (size list)
  (writeSlots writeReg ((slotsOf (f.list.setWidth 16)).map fun r => (r, loadedSlot s list start r))
    (blockWriteBack f.w f.rn (backOf f.u base (size list)) (readBelow s list start 16))).charge .loadM

theorem loads_return (s : State) (list : BitVec 15) (start : Word) :
    let slots := slotsOf (list.setWidth 16)
    let v := loadedSlot s (1#1 ++ list) start
    (loadSlots slots start s).1 = slots.map (fun r => (r, v r)) ∧
      memRead (wordAligned (start + listBytes slots)) .word (loadSlots slots start s).2 =
        (v 15#4, readBelow s (1#1 ++ list) start 16) := by
  intro slots v
  have words := loadSlots_slotsOf s (1#1 ++ list) start
  rw [slotsOf_return, loadSlots_append, List.map_append, Prod.mk.injEq] at words
  obtain ⟨values, state⟩ := words
  obtain ⟨below, last⟩ := List.append_inj' values (by simp)
  rw [listBytes]
  exact ⟨below, Prod.ext (congrArg Prod.snd (List.cons.inj last).1) state⟩

theorem ldmReturnBody_eq (f : BdtLowFields) (s : State) :
    let list := 1#1 ++ f.list
    let start := startOf f.p f.u (readArm f.rn s) (size list)
    ldmReturnBody f s = exceptionReturn (loadedSlot s list start 15#4) (returnState f s) := by
  obtain ⟨below, top⟩ := loads_return s f.list (startOf f.p f.u (readArm f.rn s) (size (1#1 ++ f.list)))
  simp only [ldmReturnBody, blockStart_eq, blockWb_eq, below, top]
  rfl

theorem Registers.of_eq {s t : State} {val val' : Reg → Word} (h : Registers s t val) (e : ∀ r, r ≠ 15#4 → val r = val' r) :
    Registers s t val' :=
  ⟨fun r hr => (h.1 r hr).trans (e r hr), h.2⟩

section
variable (f : BdtLowFields) (s : State)

theorem returnState_same :
    SameOutside (readBelow s (1#1 ++ f.list) (startOf f.p f.u (readArm f.rn s) (size (1#1 ++ f.list))) 16) (returnState f s) :=
  (((SameOutside.refl _).writeBack ..).writeSlots _).charge .loadM

theorem returnState_cpsr : (returnState f s).cpsr = s.cpsr := by
  rw [returnState, charge_cpsr, writeSlots_cpsr, blockWriteBack_cpsr]
  exact (seen_readBelow ..).cpsr

theorem returnState_stepCost : (returnState f s).stepCost =
    (readBelow s (1#1 ++ f.list) (startOf f.p f.u (readArm f.rn s) (size (1#1 ++ f.list))) 16).stepCost + 1 := by
  rw [returnState, charge_stepCost, writeSlots_stepCost, blockWriteBack_stepCost]
  rfl

theorem registers_returnState :
    let list := 1#1 ++ f.list
    let base := readArm f.rn s
    let v := loadedSlot s list (startOf f.p f.u base (size list))
    Registers s (returnState f s) fun r =>
      if inSlots list r then v r else if f.w = true ∧ r = f.rn then backOf f.u base (size list) else slot s r := by
  intro list base v
  have seen := seen_readBelow s list (startOf f.p f.u base (size list)) 16
  have regs := ((registers_of_regs seen.regs).writeBack f.w f.rn (backOf f.u base (size list)) (congrArg Cpsr.mode seen.cpsr)).writeSlots
    v (slotsOf (f.list.setWidth 16)) (by rw [blockWriteBack_cpsr, seen.cpsr])
  refine (regs.congr rfl rfl rfl : Registers s (returnState f s) _).of_eq fun r hr => ?_
  have listed : r ∈ slotsOf (f.list.setWidth 16) ↔ inSlots list r = true := by
    rw [← mem_slots, slotsOf_return, List.mem_append, List.mem_singleton, or_iff_left hr]
  simp only [listed]

end

/-- Settles O43: the loads and the write-back leave `returnState`; then the exception return is that of R517. -/
theorem loadMultipleReturn : Obligations.LoadMultipleReturn := by
  intro f s hc list base start v wb kept
  have e : exec (.ldmReturn f) s = exceptionReturn (v 15#4) (returnState f s) :=
    (exec_passed (i := .ldmReturn f) (fun _ => rfl) hc).trans (ldmReturnBody_eq f s)
  have seen := seen_readBelow s list start 16
  have cpsr := returnState_cpsr f s
  have saved (b : ExcMode) : (returnState f s).spsr b = s.spsr b := ((returnState_same f s).spsr b).trans (seen.spsr b)
  have keeps {t : State} (same : SameOutside (readBelow s list start 16) t) (regs : t.regs = (returnState f s).regs)
      (cost : t.stepCost = (returnState f s).stepCost) (mark : t.wrotePc = true) : kept t :=
    ⟨readBlock_of_same same (cost.trans (returnState_stepCost f s)), (registers_returnState f s).congr rfl rfl regs, mark,
      fun b => (same.spsr b).trans (seen.spsr b), same.halted.trans seen.halted, same.budget.trans seen.budget⟩
  refine ⟨fun h => ?_, fun b h => ?_⟩
  · rw [← cpsr] at h
    refine ⟨writePc (v 15#4) (returnState f s), e.trans (exceptionReturn_of_none _ h), cpsr, by rw [writePc_pc, cpsr], ?_⟩
    exact keeps ((returnState_same f s).writePc _) rfl rfl rfl
  · rw [← cpsr] at h
    refine ⟨fun m hm => ?_, fun hm => e.trans (exceptionReturn_of_illegal _ h (by rwa [saved]))⟩
    have hp : ((returnState f s).spsr b).restore = some (restored (s.spsr b) m) := by rw [saved, restore_of_mode hm]
    refine ⟨writePc (v 15#4) ((returnState f s).setCpsr (restored (s.spsr b) m)), e.trans (exceptionReturn_of_restore _ h hp), rfl,
      rfl, ?_⟩
    exact keeps (((returnState_same f s).setCpsr _).writePc _) rfl rfl rfl

/-! ## STM and its kin -/

/-- What a block store leaves: its words, then the base written back (R282). -/
theorem ends_blockStore {i : Instr} {s : State} {list : BitVec 16} {start : Word} {val : Reg → Word} {w : Bool} {rn : Reg} {wb : Word}
    (e : exec i s = .next ((blockWriteBack w rn wb (writeBlock s list start val)).charge .storeM)) :
    Ends i s fun t =>
      StoredBlock s t list start val ∧
      Registers s t (fun r => if w = true ∧ r = rn then wb else slot s r) ∧
      t.pc = (if w = true ∧ rn = 15#4 then alignPc s.cpsr.t wb else s.pc) ∧
      t.wrotePc = pcMark s (w = true ∧ rn = 15#4) ∧
      t.cpsr = s.cpsr ∧ SavedKept s t ∧ t.budget = s.budget := by
  let u := writeBlock s list start val
  have core : SameCore s u := sameCore_storeEach ..
  have same : SameOutside u ((blockWriteBack w rn wb u).charge .storeM) := ((SameOutside.refl u).writeBack ..).charge .storeM
  refine ⟨(blockWriteBack w rn wb u).charge .storeM, e, storedBlock_of_same same ?_,
    (registers_of_regs core.regs).writeBack w rn wb (congrArg Cpsr.mode core.cpsr), ?_, ?_, ?_,
    fun b => (same.spsr b).trans (core.spsr b), same.budget.trans core.budget⟩
  · rw [charge_stepCost, blockWriteBack_stepCost]
    rfl
  · rw [charge_pc, blockWriteBack_pc, core.pc, core.cpsr]
  · rw [charge_wrotePc, blockWriteBack_wrotePc, core.wrotePc, pcMark]
  · rw [charge_cpsr, blockWriteBack_cpsr, core.cpsr]

theorem slot_of_sameCore {s u : State} (h : SameCore s u) (r : Reg) : slot u r = slot s r := by
  rw [slot, slot, h.cpsr, phys_of_regs h.regs]

/-- A slot as it stands after the write-back. -/
theorem slot_of_blockWriteBack {s u : State} {w : Bool} {rn r : Reg} {wb : Word} (h : SameCore (blockWriteBack w rn wb s) u)
    (hr : r ≠ 15#4) : slot u r = if w = true ∧ r = rn then wb else slot s r := by
  have regs := (registers_of_regs rfl).writeBack (s := s) (t := s) w rn wb rfl
  rw [slot_of_sameCore h, slot, blockWriteBack_cpsr]
  exact regs.1 r hr

/-- Settles O41: the slots above the lowest are read after the write-back. -/
theorem storeMultiple : Obligations.StoreMultiple := by
  intro f s hc ne base wb val
  refine ends_blockStore ?_
  have e := exec_passed (i := .stm f) (fun _ => rfl) hc
  rw [stmBody, if_neg ne, blockStart_eq, blockWb_eq] at e
  rw [storeBlock_slotsOf (val := val) _ ne] at e
  · exact e
  · intro r _ lowest
    by_cases hr : r = 15#4
    · simp [stmValue, val, hr]
      rfl
    · simp [stmValue, val, hr, lowest, slot]
  · intro r _ above u hu
    by_cases hr : r = 15#4
    · simp [stmValue, val, hr]
      rfl
    · simpa [stmValue, val, hr, above, slot] using slot_of_blockWriteBack hu hr

/-- Settles O42. -/
theorem userBankTransfers : Obligations.UserBankTransfers := by
  refine ⟨ends_ldmUser, fun f s hc ne hw => ?_⟩
  let val (r : Reg) : Word := if r = 15#4 then s.pc + 8#32 else s.phys (physReg .usr r)
  have e := exec_passed (i := .stmUser f) (fun _ => rfl) hc
  rw [stmUserBody, if_neg ne, hw, if_neg Bool.false_ne_true, blockStart_eq] at e
  rw [storeSlots_slotsOf (val := val)] at e
  · obtain ⟨t, e, stored, regs, pc, mark, rest⟩ := ends_blockStore (w := false) (rn := 0#4) (wb := 0#32) e
    refine ⟨t, e, stored, ?_, ?_, ?_, rest⟩
    · simpa using regs
    · simpa using pc
    · simpa [pcMark] using mark
  · intro r _ u hu
    by_cases hr : r = 15#4
    · simp [stmUserValue, val, hr]
      rfl
    · simp [stmUserValue, val, hr, readUser, phys_of_regs hu.regs]

/-! ## THUMB -/

theorem pushSlots_eq (r : Bool) (rlist : BitVec 8) : pushSlots r rlist = slotsOf (pushList r rlist) := by
  have e : ∀ (r : Bool) (rlist : BitVec 8), 0#1 ++ BitVec.ofBool r ++ 0#6 ++ rlist = pushList r rlist := by decide
  rw [pushSlots, e]

theorem popSlots_eq (r : Bool) (rlist : BitVec 8) : popSlots r rlist = slotsOf (popList r rlist) := by
  have e : ∀ (r : Bool) (rlist : BitVec 8), BitVec.ofBool r ++ 0#7 ++ rlist = popList r rlist := by decide
  rw [popSlots, e]

@[simp] theorem inSlots_pushList_pc (r : Bool) (rlist : BitVec 8) : inSlots (pushList r rlist) 15#4 = false := by
  cases r <;> simp [inSlots, pushList]

@[simp] theorem inSlots_popList_sp (r : Bool) (rlist : BitVec 8) : inSlots (popList r rlist) 13#4 = false := by
  cases r <;> simp [inSlots, popList]

@[simp] theorem inSlots_popList_pc (r : Bool) (rlist : BitVec 8) : inSlots (popList r rlist) 15#4 = r := by
  cases r <;> simp [inSlots, popList]

@[simp] theorem inSlots_low_pc (rlist : BitVec 8) : inSlots (rlist.setWidth 16) 15#4 = false := by
  simp [inSlots]

@[simp] theorem inSlots_low (rb : LowReg) (rlist : BitVec 8) : inSlots (rlist.setWidth 16) rb.slot = rlist.getLsbD rb.toNat := by
  have := rb.isLt
  simp [inSlots, LowReg.slot, Nat.mod_eq_of_lt (show rb.toNat < 16 by omega)]
  omega

theorem lowList_ne_zero {rlist : BitVec 8} (ne : rlist ≠ 0#8) : rlist.setWidth 16 ≠ 0#16 := by
  revert rlist
  decide

theorem ne_pc_of_inSlots {list : BitVec 16} {r : Reg} (h : inSlots list 15#4 = false) (hr : inSlots list r = true) : r ≠ 15#4 :=
  fun e => by simp [e, h] at hr

theorem readThumb_of_ne {r : Reg} (hr : r ≠ 15#4) (s : State) : readThumb r s = slot s r := readReg_of_ne hr _ s

theorem thumbStoreBlock_eq (rb : LowReg) (slots : List Reg) (base : Word) (s : State) :
    thumbStoreBlock rb slots base s = storeBlock readThumb (blockWriteBack true rb.slot (base + listBytes slots)) slots base s := by
  cases slots <;> rfl

/-- The lists that are refused are the empty ones. -/
theorem not_empty_of_list {r : Bool} {rlist : BitVec 8} {list : Bool → BitVec 8 → BitVec 16} (h : list false 0#8 = 0#16)
    (ne : list r rlist ≠ 0#16) : ¬(r = false ∧ rlist = 0#8) := by
  rintro ⟨rfl, rfl⟩
  exact ne h

section
variable (s : State)

theorem exec_tPush {r : Bool} {rlist : BitVec 8} (ne : pushList r rlist ≠ 0#16) :
    let list := pushList r rlist
    let start := slot s 13#4 - BitVec.ofNat 32 (4 * size list)
    exec (.tPush r rlist) s = .next ((blockWriteBack true 13#4 start (writeBlock s list start (slot s))).charge .storeM) := by
  intro list start
  have value : ∀ k, inSlots list k = true → ∀ u, SameCore s u → readThumb k u = slot s k := fun k hk u hu => by
    rw [readThumb_of_ne (ne_pc_of_inSlots (inSlots_pushList_pc r rlist) hk), slot_of_sameCore hu]
  show execTPush r rlist s = _
  rw [execTPush, if_neg (not_empty_of_list rfl ne), pushSlots_eq, listBytes_slotsOf, readThumb_sp, storeSlots_slotsOf start value]
  rfl

theorem exec_tPop {r : Bool} {rlist : BitVec 8} (ne : popList r rlist ≠ 0#16) :
    let list := popList r rlist
    let sp := slot s 13#4
    exec (.tPop r rlist) s = .next ((writeSlots writeReg (loadSlots (slotsOf list) sp s).1
      (blockWriteBack true 13#4 (sp + BitVec.ofNat 32 (4 * size list)) (loadSlots (slotsOf list) sp s).2)).charge .loadM) := by
  intro list sp
  have other : ∀ c ∈ (loadSlots (slotsOf list) sp s).1, 13#4 ≠ c.1 := by
    rw [loadSlots_slotsOf]
    simp only [List.mem_map]
    rintro _ ⟨k, hk, rfl⟩ rfl
    exact absurd (mem_slots.1 hk) (by simp [list])
  show execTPop r rlist s = _
  rw [execTPop, if_neg (not_empty_of_list rfl ne), popSlots_eq, listBytes_slotsOf, readThumb_sp, ← writeSlots_writeReg _ other]
  rfl

theorem exec_tStmia (rb : LowReg) {rlist : BitVec 8} (ne : rlist ≠ 0#8) :
    let list := rlist.setWidth 16
    let base := slot s rb.slot
    let wb := base + BitVec.ofNat 32 (4 * size list)
    exec (.tStmia rb rlist) s = .next ((blockWriteBack true rb.slot wb
      (writeBlock s list base fun k => if k = rb.slot ∧ rank list k.toNat ≠ 0 then wb else slot s k)).charge .storeM) := by
  intro list base wb
  have notPc {k : Reg} : inSlots list k = true → k ≠ 15#4 := ne_pc_of_inSlots (inSlots_low_pc rlist)
  show execTStmia rb rlist s = _
  rw [execTStmia, if_neg ne, thumbStoreBlock_eq, lowSlots, listBytes_slotsOf, low_eq]
  rw [storeBlock_slotsOf (val := fun k => if k = rb.slot ∧ rank list k.toNat ≠ 0 then wb else slot s k)]
  · exact lowList_ne_zero ne
  · intro k hk lowest
    rw [readThumb_of_ne (notPc hk), if_neg fun h => h.2 lowest]
  · intro k hk above u hu
    rw [readThumb_of_ne (notPc hk), slot_of_blockWriteBack hu (notPc hk)]
    exact if_congr ⟨fun h => ⟨h.2, above⟩, fun h => ⟨rfl, h.1⟩⟩ rfl rfl

theorem exec_tLdmia (rb : LowReg) {rlist : BitVec 8} (ne : rlist ≠ 0#8) :
    let list := rlist.setWidth 16
    let base := slot s rb.slot
    exec (.tLdmia rb rlist) s = .next ((writeSlots writeReg (loadSlots (slotsOf list) base s).1
      (blockWriteBack (!rlist.getLsbD rb.toNat) rb.slot (base + BitVec.ofNat 32 (4 * size list))
        (loadSlots (slotsOf list) base s).2)).charge .loadM) := by
  intro list base
  show execTLdmia rb rlist s = _
  rw [execTLdmia, if_neg ne, lowSlots, listBytes_slotsOf, low_eq]
  cases h : rlist.getLsbD rb.toNat
  · have other : ∀ c ∈ (loadSlots (slotsOf list) base s).1, rb.slot ≠ c.1 := by
      rw [loadSlots_slotsOf]
      simp only [List.mem_map]
      rintro _ ⟨k, hk, rfl⟩ e
      obtain rfl : rb.slot = k := e
      exact absurd (mem_slots.1 hk) (by rw [inSlots_low, h]; exact Bool.false_ne_true)
    rw [if_neg Bool.false_ne_true, ← writeSlots_writeReg _ other]
    rfl
  · rfl

end

/-- Settles O49: each row is a block transfer from the base's slot, upward or (PUSH) downward. -/
theorem thumbBlocks : Obligations.ThumbBlocks := by
  intro s
  refine ⟨fun r rlist ne => ?_, fun r rlist ne => ?_, fun rb rlist ne => ⟨?_, ?_⟩⟩
  · obtain ⟨t, e, stored, regs, pc, mark, rest⟩ := ends_blockStore (exec_tPush s ne)
    refine ⟨t, e, stored, regs.of_eq fun k _ => ?_, ?_, ?_, rest⟩
    · simp [written]
    · simpa using pc
    · simpa [pcMark] using mark
  · obtain ⟨t, e, read, regs, pc, mark, cpsr, saved, halted, budget⟩ := ends_blockLoad (exec_tPop s ne)
    refine ⟨t, e, read, regs.of_eq fun k _ => ?_, ?_, ?_, halted, cpsr, saved, budget⟩
    · simp
    · simpa using pc
    · simpa [pcMark] using mark
  · obtain ⟨t, e, stored, regs, pc, mark, rest⟩ := ends_blockStore (exec_tStmia s rb ne)
    have low := LowReg.slot_ne_pc rb
    refine ⟨t, e, stored, regs.of_eq fun k _ => ?_, ?_, ?_, rest⟩
    · simp [written]
    · simpa [low] using pc
    · simpa [low, pcMark] using mark
  · obtain ⟨t, e, read, regs, pc, mark, cpsr, saved, halted, budget⟩ := ends_blockLoad (exec_tLdmia s rb ne)
    have low := LowReg.slot_ne_pc rb
    refine ⟨t, e, read, regs.of_eq fun k _ => ?_, ?_, ?_, halted, cpsr, saved, budget⟩
    · by_cases hk : k = rb.slot
      · cases h : rlist.getLsbD rb.toNat <;> simp [hk, h]
      · simp [hk]
    · simpa [low] using pc
    · simpa [low, pcMark] using mark

end Sys2Proof.Machine.Claims
end

section
/-! Rules about every instruction: which stop (R31, R285, R287, R288), which change a flag (R32), which change T, I, F, the mode or an
SPSR (R34, R36, R37), and which register banks they reach (R25). -/

namespace Sys2Proof.Machine.Claims

/-! ## What the acts of a meaning keep -/

/-- N, Z, C and V are as before. -/
def FlagsKept (s t : State) : Prop := t.cpsr.n = s.cpsr.n ∧ t.cpsr.z = s.cpsr.z ∧ t.cpsr.c = s.cpsr.c ∧ t.cpsr.v = s.cpsr.v

/-- No register but those of the bank of the mode of `s` has changed. -/
def OthersKept (s t : State) : Prop := ∀ p, (∀ r, r ≠ 15#4 → p ≠ physReg s.cpsr.mode r) → t.phys p = s.phys p

/-- The acts of one mode: the mode stays and no other bank is touched; and no flag is, unless `flags`. -/
structure Keeps (flags : Bool) (s t : State) : Prop where
  mode : t.cpsr.mode = s.cpsr.mode
  others : OthersKept s t
  status : flags = false → FlagsKept s t

namespace Keeps
variable {flags : Bool} {s t u : State}

theorem of_same (regs : t.regs = s.regs) (cpsr : t.cpsr = s.cpsr) : Keeps flags s t :=
  ⟨by rw [cpsr], fun p _ => phys_of_regs regs p, fun _ => by rw [FlagsKept, cpsr]; exact ⟨rfl, rfl, rfl, rfl⟩⟩

theorem refl (s : State) : Keeps flags s s := of_same rfl rfl

theorem trans (h : Keeps flags s t) (k : Keeps flags t u) : Keeps flags s u where
  mode := k.mode.trans h.mode
  others p hp := (k.others p (h.mode ▸ hp)).trans (h.others p hp)
  status e := by
    obtain ⟨n, z, c, v⟩ := h.status e
    obtain ⟨n', z', c', v'⟩ := k.status e
    exact ⟨n'.trans n, z'.trans z, c'.trans c, v'.trans v⟩

theorem charge (h : Keeps flags s t) (k : CostCategory) (mc : Nat := 0) : Keeps flags s (t.charge k mc) := h.trans (of_same rfl rfl)

theorem writeReg (h : Keeps flags s t) (r : Reg) (v : Word) : Keeps flags s (Machine.writeReg r v t) :=
  h.trans ⟨by rw [writeReg_cpsr], (registers_writeReg t r v).2, fun _ => by
    rw [FlagsKept, writeReg_cpsr]; exact ⟨rfl, rfl, rfl, rfl⟩⟩

theorem writePc (h : Keeps flags s t) (v : Word) : Keeps flags s (Machine.writePc v t) := h.writeReg 15#4 v

theorem withFlags (h : Keeps true s t) (mode : u.cpsr.mode = t.cpsr.mode) (regs : u.regs = t.regs) : Keeps true s u :=
  h.trans ⟨mode, fun p _ => phys_of_regs regs p, nofun⟩

theorem setFlags (h : Keeps true s t) (o : AluOut) : Keeps true s (Machine.setFlags o t) := h.withFlags rfl rfl

theorem memWrite (h : Keeps flags s t) (a : Word) (w : Width) (v : Word) : Keeps flags s (Machine.memWrite a w v t) :=
  h.trans (of_same (sameCore_memWrite a w v t).regs (sameCore_memWrite a w v t).cpsr)

theorem seen (h : Keeps flags s t) (k : Seen t u) : Keeps flags s u := h.trans (of_same k.regs k.cpsr)

theorem blockWriteBack (h : Keeps flags s t) (w : Bool) (rn : Reg) (wb : Word) : Keeps flags s (Machine.blockWriteBack w rn wb t) := by
  cases w
  · exact h
  · exact h.writeReg rn wb

theorem writeSlots (h : Keeps flags s t) (l : List (Reg × Word)) :
    Keeps flags s (Machine.writeSlots Machine.writeReg l t) := by
  induction l generalizing t with
  | nil => exact h
  | cons c l ih => exact ih (h.writeReg c.1 c.2)

theorem storeSlots (h : Keeps flags s t) (value : Reg → State → Word) (l : List Reg) (a : Word) :
    Keeps flags s (Machine.storeSlots value l a t) :=
  have ⟨regs, _, cpsr, _⟩ := storeSlots_rest value l a t
  h.trans (of_same regs cpsr)

theorem storeBlock (value : Reg → State → Word) (w : Bool) (rn : Reg) (wb : Word) (l : List Reg) (a : Word) (s : State) :
    Keeps flags s (Machine.storeBlock value (Machine.blockWriteBack w rn wb) l a s) := by
  cases l with
  | nil => exact refl s
  | cons r rest => exact (((refl s).memWrite ..).blockWriteBack ..).storeSlots ..

theorem singleLoad (k : LoadKind) (m : Addressing) (rn rd : Reg) (s : State) : Keeps flags s (Machine.singleLoad k m rn rd s) :=
  ((((refl s).seen (Seen.loadAt ..)).blockWriteBack ..).writeReg ..).charge ..

theorem singleStore (w : Width) (m : Addressing) (rn : Reg) (v : Word) (s : State) : Keeps flags s (Machine.singleStore w m rn v s) :=
  (((refl s).memWrite ..).blockWriteBack ..).charge ..

theorem swap (k : LoadKind) (w : Width) (ea v : Word) (rd : Reg) (s : State) : Keeps flags s (Machine.swap k w ea v rd s) :=
  ((((refl s).seen (Seen.loadAt ..)).memWrite ..).writeReg ..).charge ..

theorem mulWrite (sBit : Bool) (rd : Reg) (r : Word) (h : Keeps sBit s t) : Keeps sBit s (Machine.mulWrite sBit rd r t) := by
  cases sBit
  · exact h.writeReg rd r
  · exact (h.writeReg rd r).withFlags rfl rfl

theorem mullWrite (sBit : Bool) (lo hi : Reg) (p : BitVec 64) (h : Keeps sBit s t) :
    Keeps sBit s (Machine.mullWrite sBit lo hi p t) := by
  cases sBit
  · exact (h.writeReg ..).writeReg ..
  · exact ((h.writeReg ..).writeReg ..).withFlags rfl rfl

theorem mrsDraw (r : Bool) (h : Keeps flags s t) : Keeps flags s (Machine.mrsDraw r t) := by
  unfold Machine.mrsDraw
  split
  · exact h.trans (of_same rfl rfl)
  · exact h

theorem branchExchange (v : Word) (h : Keeps flags s t) : Keeps flags s (Machine.branchExchange v t) :=
  h.trans ⟨rfl, fun _ _ => rfl, fun _ => ⟨rfl, rfl, rfl, rfl⟩⟩

theorem condBranch (c : Cond) (o : BitVec 8) (s : State) : Keeps flags s (Machine.condBranch c o s) := by
  unfold Machine.condBranch
  split
  · exact ((refl s).charge ..).writePc ..
  · exact refl s

theorem thumbWrite (rd : LowReg) (o : AluOut) (h : Keeps true s t) : Keeps true s (Machine.thumbWrite rd o t) :=
  (h.writeReg rd.slot o.r).setFlags o

theorem thumbLoad (k : LoadKind) (ea : Word) (rd : LowReg) (s : State) : Keeps flags s (Machine.thumbLoad k ea rd s) :=
  (((refl s).seen (Seen.loadAt ..)).writeReg ..).charge ..

theorem thumbStore (w : Width) (ea : Word) (rd : LowReg) (s : State) : Keeps flags s (Machine.thumbStore w ea rd s) :=
  ((refl s).memWrite ..).charge ..

end Keeps

/-! ## Instructions that always go on, and keep what `Keeps` says -/

/-- The result is a state, and the acts before it were those of one mode. -/
def Goes (flags : Bool) (s : State) (r : Result) : Prop := ∃ t, r = .next t ∧ Keeps flags s t

section
variable {flags : Bool} {s t : State} {c : Cond}

theorem goes_guarded {body : State → State} (h : ∀ s, Keeps flags s (body s)) :
    Goes flags s (guarded c (fun s => .next (body s)) s) := by
  unfold guarded
  split
  · exact ⟨_, rfl, h s⟩
  · exact ⟨s, rfl, .refl s⟩

theorem goes_compare {o : State → AluOut} {k : CostCategory} :
    Goes true s (guarded c (fun s => .next (setFlags (o s) (s.charge k))) s) :=
  goes_guarded fun s => ((Keeps.refl s).charge k).setFlags (o s)

theorem goes_load {k : LoadKind} {m : State → Addressing} {rn rd : Reg} :
    Goes flags s (guarded c (fun s => .next (singleLoad k (m s) rn rd s)) s) :=
  goes_guarded fun s => Keeps.singleLoad k (m s) rn rd s

theorem goes_store {w : Width} {m : State → Addressing} {rn : Reg} {v : State → Word} :
    Goes flags s (guarded c (fun s => .next (singleStore w (m s) rn (v s) s)) s) :=
  goes_guarded fun s => Keeps.singleStore w (m s) rn (v s) s

theorem goes_swap {k : LoadKind} {w : Width} {ea v : State → Word} {rd : Reg} :
    Goes flags s (guarded c (fun s => .next (swap k w (ea s) (v s) rd s)) s) :=
  goes_guarded fun s => Keeps.swap k w (ea s) (v s) rd s

theorem goes_mul {i : Instr} {sBit : Bool} {rd : Reg} {r : State → Word} {k : CostCategory} {mc : State → Nat}
    (e : ∀ s, exec i s = guarded c (fun s => .next (mulWrite sBit rd (r s) (s.charge k (mc s)))) s) (hs : sBit = flags) :
    Goes flags s (exec i s) := by
  rw [e, ← hs]
  exact goes_guarded fun s => ((Keeps.refl s).charge k (mc s)).mulWrite sBit rd (r s)

theorem goes_mull {i : Instr} {sBit : Bool} {lo hi : Reg} {p : State → BitVec 64} {k : CostCategory} {mc : State → Nat}
    (e : ∀ s, exec i s = guarded c (fun s => .next (mullWrite sBit lo hi (p s) (s.charge k (mc s)))) s) (hs : sBit = flags) :
    Goes flags s (exec i s) := by
  rw [e, ← hs]
  exact goes_guarded fun s => ((Keeps.refl s).charge k (mc s)).mullWrite sBit lo hi (p s)

theorem goes_branch {v : State → Word} {k : CostCategory} :
    Goes flags s (guarded c (fun s => .next (writePc (v s) (s.charge k))) s) :=
  goes_guarded fun s => ((Keeps.refl s).charge k).writePc (v s)

theorem goes_exchange {v : State → Word} {k : CostCategory} :
    Goes flags s (guarded c (fun s => .next (Machine.branchExchange (v s) (s.charge k))) s) :=
  goes_guarded fun s => ((Keeps.refl s).charge k).branchExchange (v s)

theorem goes_next (h : Keeps flags s t) : Goes flags s (.next t) := ⟨t, rfl, h⟩

theorem goes_dp {sBit : Bool} {rd : Reg} {o : State → AluOut} {k : CostCategory} (h : (sBit && rd == 15#4) = false) :
    Goes sBit s (guarded c (fun s => dpWrite sBit rd (o s) (s.charge k)) s) := by
  have body (s : State) : Goes sBit s (dpWrite sBit rd (o s) (s.charge k)) := by
    by_cases hrd : rd = 15#4
    · obtain rfl : sBit = false := by simpa [hrd] using h
      rw [dpWrite, if_pos hrd]
      exact goes_next (((Keeps.refl s).charge k).writePc _)
    · rw [dpWrite, if_neg hrd]
      cases sBit
      · exact goes_next (((Keeps.refl s).charge k).writeReg rd _)
      · exact goes_next ((((Keeps.refl s).charge k).writeReg rd _).setFlags _)
  unfold guarded
  split
  · exact body s
  · exact ⟨s, rfl, .refl s⟩

end

/-- The block transfers that may be refused: all but the one that is a return. -/
def movesBlock : Instr → Bool
  | .ldm _ | .ldmUser _ | .stm _ | .stmUser _ | .tPush _ _ | .tPop _ _ | .tStmia _ _ | .tLdmia _ _ => true
  | _ => false

/-- Every instruction but the other block transfers, those that raise, the returns and MSR. -/
theorem goes_exec (i : Instr) (s : State) (block : movesBlock i = false) (raises : i.raises = false) (returns : i.returns = false)
    (status : i.writesStatus = false) : Goes (writesFlags i) s (exec i s) := by
  cases i with
  | andImm | andReg | andRsr | eorImm | eorReg | eorRsr | subImm | subReg | subRsr | rsbImm | rsbReg | rsbRsr | addImm | addReg
  | addRsr | adcImm | adcReg | adcRsr | sbcImm | sbcReg | sbcRsr | rscImm | rscReg | rscRsr | orrImm | orrReg | orrRsr | movImm
  | movReg | movRsr | bicImm | bicReg | bicRsr | mvnImm | mvnReg | mvnRsr => exact goes_dp returns
  | tstImm | tstReg | tstRsr | teqImm | teqReg | teqRsr | cmpImm | cmpReg | cmpRsr | cmnImm | cmnReg | cmnRsr =>
    exact goes_compare
  | mul | mla => exact goes_mul (fun _ => rfl) rfl
  | umull | umlal | smull | smlal => exact goes_mull (fun _ => rfl) rfl
  | mrs => exact goes_guarded fun s => (((Keeps.refl s).charge _).mrsDraw _).writeReg _ _
  | bx => exact goes_exchange
  | b => exact goes_branch
  | bl => exact goes_guarded fun s => (((Keeps.refl s).charge _).writeReg _ _).writePc _
  | swp | swpb => exact goes_swap
  | ldrImmPre | ldrImmPost | ldrtImm | ldrbImmPre | ldrbImmPost | ldrbtImm | ldrRegPre | ldrRegPost | ldrtReg | ldrbRegPre
  | ldrbRegPost | ldrbtReg | ldrhReg | ldrhImm | ldrsbReg | ldrsbImm | ldrshReg | ldrshImm =>
    exact goes_load
  | strImmPre | strImmPost | strtImm | strbImmPre | strbImmPost | strbtImm | strRegPre | strRegPost | strtReg | strbRegPre
  | strbRegPost | strbtReg | strhReg | strhImm => exact goes_store
  | tLslImm | tLsrImm | tAsrImm | tAddReg | tSubReg | tAddImm3 | tSubImm3 | tMovImm8 | tAddImm8 | tSubImm8 | tAnd | tEor | tLsl | tLsr
  | tAsr | tAdc | tSbc | tRor | tNeg | tOrr | tBic | tMvn => exact goes_next (((Keeps.refl s).charge _).thumbWrite _ _)
  | tCmpImm8 | tTst | tCmp | tCmn | tCmpHi => exact goes_next (((Keeps.refl s).charge _).setFlags _)
  | tMul => exact goes_next ((((Keeps.refl s).charge _ _).thumbWrite _ _).withFlags rfl rfl)
  | tAddHi | tMovHi | tAddPc | tAddSp | tIncSp | tDecSp | tBlFirst => exact goes_next (((Keeps.refl s).charge _).writeReg _ _)
  | tBx => exact goes_next (((Keeps.refl s).charge _).branchExchange _)
  | tLdrPc | tLdrReg | tLdrbReg | tLdsbReg | tLdrhReg | tLdshReg | tLdrImm | tLdrbImm | tLdrhImm | tLdrSp =>
    exact goes_next (Keeps.thumbLoad ..)
  | tStrReg | tStrbReg | tStrhReg | tStrImm | tStrbImm | tStrhImm | tStrSp => exact goes_next (Keeps.thumbStore ..)
  | tBeq | tBne | tBcs | tBcc | tBmi | tBpl | tBvs | tBvc | tBhi | tBls | tBge | tBlt | tBgt | tBle => exact goes_next (.condBranch ..)
  | tB => exact goes_next (((Keeps.refl s).charge _).writePc _)
  | tBlSecond => exact goes_next ((((Keeps.refl s).charge _).writePc _).writeReg _ _)
  | swi | und | stc | ldc | cdp | mcr | mrc | tSwi | tUnd => exact nomatch raises
  | msrReg | msrImm => exact nomatch status
  | ldm | ldmUser | stm | stmUser | tPush | tPop | tStmia | tLdmia => exact nomatch block
  | ldmReturn => exact nomatch returns

/-! ## Block transfers -/

section
variable {c : Cond} {body : State → Result} {s t u : State} {e : Refusal}

theorem guarded_eq_refused : guarded c body s = .refused e ↔ condPassed c s.cpsr = true ∧ body s = .refused e := by
  rw [guarded]
  split
  · next h => simp [h]
  · next h => simp [h]

theorem guarded_eq_fault {f : Fault} : guarded c body s = .fault f ↔ condPassed c s.cpsr = true ∧ body s = .fault f := by
  rw [guarded]
  split
  · next h => simp [h]
  · next h => simp [h]

theorem ite_eq_fault {p : Prop} [Decidable p] {r : Result} {f : Fault} :
    (if p then .refused e else r) = .fault f ↔ ¬p ∧ r = .fault f := by
  split
  · next h => simp [h]
  · next h => simp [h]

theorem ite_eq_next {p : Prop} [Decidable p] {r : Result} : (if p then .refused e else r) = .next t ↔ ¬p ∧ r = .next t := by
  split
  · next h => simp [h]
  · next h => simp [h]

theorem ite_eq_refused {p : Prop} [Decidable p] {r : Result} {a : Refusal} :
    (if p then .refused a else r) = .refused e ↔ p ∧ e = a ∨ ¬p ∧ r = .refused e := by
  split
  · next h => simp [h, eq_comm (a := a)]
  · next h => simp [h]

end

section
variable (s : State) (e : Refusal)

@[simp] theorem refused_ldm (f : BdtFields) : exec (.ldm f) s = .refused e ↔
    condPassed f.cond s.cpsr = true ∧ f.list = 0#16 ∧ e = .emptyRegisterList := by
  refine guarded_eq_refused.trans (and_congr_right fun _ => ?_)
  rw [ldmBody, ite_eq_refused]
  simp

@[simp] theorem refused_stm (f : BdtFields) : exec (.stm f) s = .refused e ↔
    condPassed f.cond s.cpsr = true ∧ f.list = 0#16 ∧ e = .emptyRegisterList := by
  refine guarded_eq_refused.trans (and_congr_right fun _ => ?_)
  rw [stmBody, ite_eq_refused]
  simp

@[simp] theorem refused_ldmUser (f : BdtLowFields) : exec (.ldmUser f) s = .refused e ↔ condPassed f.cond s.cpsr = true ∧
    (f.list = 0#15 ∧ e = .emptyRegisterList ∨ f.list ≠ 0#15 ∧ f.w = true ∧ e = .userBankWriteback) := by
  refine guarded_eq_refused.trans (and_congr_right fun _ => ?_)
  rw [ldmUserBody, ite_eq_refused, ite_eq_refused]
  simp

@[simp] theorem refused_stmUser (f : BdtFields) : exec (.stmUser f) s = .refused e ↔ condPassed f.cond s.cpsr = true ∧
    (f.list = 0#16 ∧ e = .emptyRegisterList ∨ f.list ≠ 0#16 ∧ f.w = true ∧ e = .userBankWriteback) := by
  refine guarded_eq_refused.trans (and_congr_right fun _ => ?_)
  rw [stmUserBody, ite_eq_refused, ite_eq_refused]
  simp

@[simp] theorem refused_tPush (r : Bool) (rlist : BitVec 8) : exec (.tPush r rlist) s = .refused e ↔
    (r = false ∧ rlist = 0#8) ∧ e = .emptyRegisterList := by
  show execTPush r rlist s = _ ↔ _
  rw [execTPush, ite_eq_refused]
  simp

@[simp] theorem refused_tPop (r : Bool) (rlist : BitVec 8) : exec (.tPop r rlist) s = .refused e ↔
    (r = false ∧ rlist = 0#8) ∧ e = .emptyRegisterList := by
  show execTPop r rlist s = _ ↔ _
  rw [execTPop, ite_eq_refused]
  simp

@[simp] theorem refused_tStmia (rb : LowReg) (rlist : BitVec 8) : exec (.tStmia rb rlist) s = .refused e ↔
    rlist = 0#8 ∧ e = .emptyRegisterList := by
  show execTStmia rb rlist s = _ ↔ _
  rw [execTStmia, ite_eq_refused]
  simp

@[simp] theorem refused_tLdmia (rb : LowReg) (rlist : BitVec 8) : exec (.tLdmia rb rlist) s = .refused e ↔
    rlist = 0#8 ∧ e = .emptyRegisterList := by
  show execTLdmia rb rlist s = _ ↔ _
  rw [execTLdmia, ite_eq_refused]
  simp

end

/-! ## Instructions that raise, return, or write a status register -/

section
variable {i : Instr} {s t : State}

theorem raised_of_raises (raises : i.raises = true) : ∃ c cls, raised i = some (c, cls) := by
  cases i with
  | swi | und | stc | ldc | cdp | mcr | mrc | tSwi | tUnd => exact ⟨_, _, rfl⟩
  | _ => exact nomatch raises

/-- A row that raises goes on: with nothing done, or with its entry. -/
theorem exec_of_raises (raises : i.raises = true) (s : State) :
    exec i s = .next s ∨ ∃ cls, (cls = .swi ∨ cls = .undefined) ∧ exec i s = .next (enterException cls s.pc s) := by
  obtain ⟨c, cls, row⟩ := raised_of_raises raises
  obtain ⟨hc, e⟩ := exec_of_raised row
  cases passed : condPassed c s.cpsr
  · exact .inl ((e s).trans (guarded_failed _ passed))
  · exact .inr ⟨cls, hc, exec_raised row passed⟩

theorem regs_exceptionReturn {v : Word} (h : exceptionReturn v s = .next t) : t.regs = s.regs := by
  rcases exceptionReturn_next h with ⟨-, rfl⟩ | ⟨-, -, -, -, rfl⟩ <;> rfl

theorem exceptionReturn_ne_refused (v : Word) (s : State) (e : Refusal) : exceptionReturn v s ≠ .refused e := by
  unfold exceptionReturn
  split
  · exact nofun
  · split <;> exact nofun

theorem msr_ne_refused (r : Bool) (m : BitVec 4) (v : Word) (s : State) (e : Refusal) : msr r m v s ≠ .refused e := by
  unfold msr Machine.msrCpsr
  split
  · exact nofun
  · split <;> exact nofun

section
variable {c : Cond} {sBit : Bool} {rd : Reg} {o : State → AluOut} {k : CostCategory}

theorem dp_ne_refused (e : Refusal) : guarded c (fun s => dpWrite sBit rd (o s) (s.charge k)) s ≠ .refused e := by
  intro h
  obtain ⟨-, h⟩ := guarded_eq_refused.1 h
  unfold dpWrite at h
  split at h
  · split at h
    · exact exceptionReturn_ne_refused _ _ _ h
    · exact nomatch h
  · exact nomatch h

/-- Data processing reaches no other bank, a return included. -/
theorem others_dp (h : guarded c (fun s => dpWrite sBit rd (o s) (s.charge k)) s = .next t) : OthersKept s t := by
  cases returns : sBit && rd == 15#4
  · obtain ⟨u, e, keeps⟩ := goes_dp (c := c) (o := o) (k := k) (s := s) returns
    obtain rfl := Host.Outcome.next.inj (e.symm.trans h)
    exact keeps.others
  · obtain ⟨rfl, hrd⟩ : sBit = true ∧ rd = 15#4 := by simpa using returns
    rcases guarded_next h with rfl | ⟨-, h⟩
    · exact fun _ _ => rfl
    · rw [dpWrite, if_pos hrd, if_pos rfl] at h
      exact fun p _ => phys_of_regs (regs_exceptionReturn h) p

end

end

/-- A form of return is LDM form 3, or a data-processing row with S. -/
theorem row_of_returns {i : Instr} (h : i.returns = true) : writesFlags i = true ∧ ((∃ f, i = .ldmReturn f) ∨
    ∃ (c : Cond) (sBit : Bool) (rd : Reg) (o : State → AluOut) (k : CostCategory),
      ∀ s, exec i s = guarded c (fun s => dpWrite sBit rd (o s) (s.charge k)) s) := by
  cases i with
  | andImm | andReg | andRsr | eorImm | eorReg | eorRsr | subImm | subReg | subRsr | rsbImm | rsbReg | rsbRsr | addImm | addReg
  | addRsr | adcImm | adcReg | adcRsr | sbcImm | sbcReg | sbcRsr | rscImm | rscReg | rscRsr | orrImm | orrReg | orrRsr | movImm
  | movReg | movRsr | bicImm | bicReg | bicRsr | mvnImm | mvnReg | mvnRsr =>
    exact ⟨(Bool.and_eq_true_iff.1 h).1, .inr ⟨_, _, _, _, _, fun _ => rfl⟩⟩
  | ldmReturn f => exact ⟨rfl, .inl ⟨f, rfl⟩⟩
  | _ => exact nomatch h

/-! ## The stops (R31, R285, R287, R288) -/

theorem not_refused {i : Instr} (block : movesBlock i = false) (s : State) (e : Refusal) : exec i s ≠ .refused e := by
  cases raises : i.raises
  case true => rcases exec_of_raises raises s with h | ⟨cls, -, h⟩ <;> simp [h]
  cases returns : i.returns
  case true =>
    obtain ⟨f, rfl⟩ | ⟨c, sBit, rd, o, k, row⟩ := (row_of_returns returns).2
    · exact fun h => exceptionReturn_ne_refused _ _ e (guarded_eq_refused.1 h).2
    · rw [row]
      exact dp_ne_refused e
  cases status : i.writesStatus
  case true =>
    cases i with
    | msrReg | msrImm => exact fun h => msr_ne_refused _ _ _ _ e (guarded_eq_refused.1 h).2
    | _ => exact nomatch status
  obtain ⟨t, h, -⟩ := goes_exec i s block raises returns status
  simp [h]

theorem block_ne_fault {i : Instr} (block : movesBlock i = true) (s : State) (f : Fault) :
    exec i s ≠ .fault f := by
  cases i with
  | ldm | stm =>
    intro h
    exact nomatch (ite_eq_fault.1 (guarded_eq_fault.1 h).2).2
  | ldmUser | stmUser =>
    intro h
    exact nomatch (ite_eq_fault.1 (ite_eq_fault.1 (guarded_eq_fault.1 h).2).2).2
  | tPush | tPop | tStmia | tLdmia =>
    intro h
    exact nomatch (ite_eq_fault.1 h).2
  | _ => exact nomatch block

/-- Settles O44: the block transfers are refused as their own lemmas say; no other row is refused, and none but the returns and MSR
comes to a mode number. -/
theorem stopsAreNamed : Obligations.StopsAreNamed := by
  intro i s
  refine ⟨?_, ?_, fun m => ?_, fun h => ?_⟩
  · cases i with
    | ldm | ldmUser | stm | stmUser | tPush | tPop | tStmia | tLdmia => simp
    | _ => exact iff_of_false (not_refused rfl s _) (by simp)
  · cases i with
    | ldm | ldmUser | stm | stmUser | tPush | tPop | tStmia | tLdmia => simp
    | _ => exact iff_of_false (not_refused rfl s _) (by simp)
  · cases i with
    | ldm | ldmUser | stm | stmUser | tPush | tPop | tStmia | tLdmia => simp
    | _ => exact not_refused rfl s _
  · by_contra neither
    rw [not_or, Bool.not_eq_true, Bool.not_eq_true] at neither
    obtain ⟨returns, status⟩ := neither
    cases block : movesBlock i
    · cases raises : i.raises
      · obtain ⟨t, e, -⟩ := goes_exec i s block raises returns status
        exact nomatch e.symm.trans h
      · rcases exec_of_raises raises s with e | ⟨cls, -, e⟩ <;> exact nomatch e.symm.trans h
    · exact block_ne_fault block s _ h

/-! ## Flags, status and banks (R25, R32, R34, R36, R37) -/

section
variable {i : Instr} {s t : State}

theorem keeps_block {flags : Bool} (block : movesBlock i = true) (user : ∀ f, i ≠ .ldmUser f) (h : exec i s = .next t) :
    Keeps flags s t := by
  cases i with
  | ldm =>
    rcases guarded_next h with rfl | ⟨-, h⟩
    · exact .refl _
    · obtain rfl := Host.Outcome.next.inj (ite_eq_next.1 h).2
      exact ((((Keeps.refl s).seen (Seen.loadSlots ..)).blockWriteBack ..).writeSlots _).charge _
  | stm =>
    rcases guarded_next h with rfl | ⟨-, h⟩
    · exact .refl _
    · obtain rfl := Host.Outcome.next.inj (ite_eq_next.1 h).2
      exact (Keeps.storeBlock ..).charge _
  | stmUser =>
    rcases guarded_next h with rfl | ⟨-, h⟩
    · exact .refl _
    · obtain rfl := Host.Outcome.next.inj (ite_eq_next.1 (ite_eq_next.1 h).2).2
      exact ((Keeps.refl s).storeSlots ..).charge _
  | tPush =>
    obtain rfl := Host.Outcome.next.inj (ite_eq_next.1 h).2
    exact (((Keeps.refl s).storeSlots ..).writeReg ..).charge _
  | tPop =>
    obtain rfl := Host.Outcome.next.inj (ite_eq_next.1 h).2
    exact ((((Keeps.refl s).seen (Seen.loadSlots ..)).writeSlots _).writeReg ..).charge _
  | tStmia =>
    obtain rfl := Host.Outcome.next.inj (ite_eq_next.1 h).2
    rw [thumbStoreBlock_eq]
    exact (Keeps.storeBlock ..).charge _
  | tLdmia =>
    obtain rfl := Host.Outcome.next.inj (ite_eq_next.1 h).2
    refine Keeps.charge ?_ _
    split
    · exact ((Keeps.refl s).seen (Seen.loadSlots ..)).writeSlots _
    · exact (((Keeps.refl s).seen (Seen.loadSlots ..)).writeSlots _).writeReg ..
  | ldmUser f => exact absurd rfl (user f)
  | _ => exact nomatch block

/-- The user-bank LDM writes the User bank and no flag. -/
theorem next_ldmUser {f : BdtLowFields} (h : exec (.ldmUser f) s = .next t) :
    t.cpsr = s.cpsr ∧ ∀ p, (∀ r, r ≠ 15#4 → p ≠ physReg .usr r) → t.phys p = s.phys p := by
  rcases guarded_next h with rfl | ⟨hc, body⟩
  · exact ⟨rfl, fun _ _ => rfl⟩
  · obtain ⟨ne, body⟩ := ite_eq_next.1 body
    obtain ⟨u, e, -, -, others, -, -, cpsr, -⟩ := ends_ldmUser f s hc ne (by simpa using (ite_eq_next.1 body).1)
    obtain rfl := Host.Outcome.next.inj (e.symm.trans h)
    have low : inSlots (f.list.setWidth 16) 15#4 = false := by simp [inSlots]
    exact ⟨cpsr, fun p hp => others p fun r hr => hp r (ne_pc_of_inSlots low hr)⟩

theorem keeps_exec (raises : i.raises = false) (returns : i.returns = false) (status : i.writesStatus = false)
    (user : ∀ f, i ≠ .ldmUser f) (h : exec i s = .next t) : Keeps (writesFlags i) s t := by
  cases block : movesBlock i
  · obtain ⟨u, e, keeps⟩ := goes_exec i s block raises returns status
    obtain rfl := Host.Outcome.next.inj (e.symm.trans h)
    exact keeps
  · exact keeps_block block user h

theorem others_exec (raises : i.raises = false) (user : ∀ f, i ≠ .ldmUser f) (h : exec i s = .next t) : OthersKept s t := by
  cases returns : i.returns
  case true =>
    obtain ⟨f, rfl⟩ | ⟨c, sBit, rd, o, k, row⟩ := (row_of_returns returns).2
    · rcases guarded_next h with rfl | ⟨-, h⟩
      · exact fun _ _ => rfl
      · rw [ldmReturnBody_eq] at h
        exact fun p hp => (phys_of_regs (regs_exceptionReturn h) p).trans ((registers_returnState f s).2 p hp)
    · rw [row] at h
      exact others_dp h
  cases status : i.writesStatus
  case true =>
    cases i with
    | msrReg | msrImm =>
      rcases guarded_next h with rfl | ⟨-, h⟩
      · exact fun _ _ => rfl
      · obtain ⟨-, -, regs, -⟩ := msr_pc h
        exact fun p _ => phys_of_regs regs p
    | _ => exact nomatch status
  exact (keeps_exec raises returns status user h).others

end

theorem writesFlags_of_writesStatus {i : Instr} (h : i.writesStatus = true) : writesFlags i = true := by
  cases i with
  | msrReg | msrImm => rfl
  | _ => exact nomatch h

/-- Settles O51: the entry saves the flags and keeps them; every other row that is not to write them is in `keeps_exec`. -/
theorem onlyTheseWriteFlags : Obligations.OnlyTheseWriteFlags := by
  intro i s t h kept
  have returns : i.returns = false := by_contra fun e => by simp [(row_of_returns (by simpa using e)).1] at kept
  have status : i.writesStatus = false := by_contra fun e => by simp [writesFlags_of_writesStatus (by simpa using e)] at kept
  cases raises : i.raises
  · by_cases user : ∃ f, i = .ldmUser f
    · obtain ⟨f, rfl⟩ := user
      rw [(next_ldmUser h).1]
      exact ⟨rfl, rfl, rfl, rfl⟩
    · exact (keeps_exec raises returns status (fun f e => user ⟨f, e⟩) h).status kept
  · rcases exec_of_raises raises s with e | ⟨cls, -, e⟩ <;> obtain rfl := Host.Outcome.next.inj (e.symm.trans h)
    · exact ⟨rfl, rfl, rfl, rfl⟩
    · rw [enterException_cpsr]
      exact ⟨rfl, rfl, rfl, rfl⟩

/-- Settles O53: the user-bank LDM by its own lemma, the entries by the one register they write, the rest by `others_exec`. -/
theorem otherBanksUntouched : Obligations.OtherBanksUntouched := by
  intro i s t p h bank user entered
  cases raises : i.raises
  · by_cases isUser : ∃ f, i = .ldmUser f
    · obtain ⟨f, rfl⟩ := isUser
      exact (next_ldmUser h).2 p (user ⟨f, rfl⟩)
    · exact others_exec raises (fun f e => isUser ⟨f, e⟩) h p bank
  · obtain ⟨svc, und⟩ := entered raises
    rcases exec_of_raises raises s with e | ⟨cls, hc, e⟩ <;> obtain rfl := Host.Outcome.next.inj (e.symm.trans h)
    · rfl
    · obtain ⟨-, -, -, -, others, -⟩ := enters_enterException cls s.pc s
      rcases hc with rfl | rfl
      · exact others p svc
      · exact others p und

theorem spsr_msr {r : Bool} {m : BitVec 4} {v : Word} {s t : State} {b : ExcMode} (h : msr r m v s = .next t)
    (other : excModeOf s.cpsr.mode ≠ some b) : t.spsr b = s.spsr b := by
  unfold msr at h
  split at h
  · obtain rfl := Host.Outcome.next.inj h
    unfold Machine.msrSpsr
    split
    · next current => exact spsr_setSpsr_ne (fun e => other (current.trans (congrArg some e.symm))) _ s
    · rfl
  · obtain ⟨p, -, rfl⟩ := msrCpsr_next h
    exact spsr_setCpsr p b s

theorem spsr_exceptionReturn {v : Word} {s t : State} (h : exceptionReturn v s = .next t) (b : ExcMode) : t.spsr b = s.spsr b := by
  rcases exceptionReturn_next h with ⟨-, rfl⟩ | ⟨-, p, -, -, rfl⟩
  · exact (((SameOutside.refl s).writePc v).spsr b)
  · exact ((((SameOutside.refl s).setCpsr p).writePc v).spsr b)

/-- Settles O50: the plain acts write no status but flags, and each of the four last acts only what it is named for. -/
theorem onlyTheseWriteStatus : Obligations.OnlyTheseWriteStatus := by
  intro i s t h
  rcases exec_acts h with plain | ⟨raises, -⟩ | ⟨exchanges, v, u, plain, rfl⟩ | ⟨returns, v, u, plain, e⟩ |
    ⟨status, sp, m, v, u, plain, e⟩
  · exact ⟨fun _ _ _ => plain.thumb, fun _ _ _ => ⟨plain.irqMask, plain.fiqMask, plain.mode⟩, fun b _ _ => plain.spsr b⟩
  · simp [raises]
  · refine ⟨by simp [exchanges], fun _ _ _ => ⟨plain.irqMask, plain.fiqMask, plain.mode⟩, fun b _ _ => ?_⟩
    exact ((((SameOutside.refl u).setCpsr _).writePc v).spsr b).trans (plain.spsr b)
  · exact ⟨by simp [returns], by simp [returns], fun b _ _ => (spsr_exceptionReturn e b).trans (plain.spsr b)⟩
  · obtain ⟨-, -, -, thumb⟩ := msr_pc e
    exact ⟨fun _ _ _ => thumb.trans plain.thumb, by simp [status],
      fun b _ other => (spsr_msr e (plain.mode ▸ other status)).trans (plain.spsr b)⟩

end Sys2Proof.Machine.Claims
end
